-- ==== Sys2Proof/Word.lean ====
section
/-! DEFINITION. Word types of the highway and the management channel (R1, R161), and their plainest arithmetic. -/

namespace Sys2Proof

/-- A management octet (R161). -/
abbrev Byte := BitVec 8

/-- One 16-bit highway slot (R1). -/
abbrev SlotWord := BitVec 16

/-- A voice sample: 14-bit two's-complement linear value, −8192 to +8191 (R1). -/
abbrev Sample := BitVec 14

/-- The marker of slot 0 (R1, R5). -/
abbrev markerWord : SlotWord := 0x6B2D

/-- SYNC, the first octet of every message (R161). -/
abbrev syncOctet : Byte := 0xC3

/-- A line number, 0 to 47 (R1). -/
abbrev LineId := Fin 48

/-- One of the 16 tone symbols, by its code of chapter 12.3: 0–9, then *, #, A, B, C, D. -/
abbrev Symbol := Fin 16

/-- To clamp is to replace a value below the range with the lower bound and one above it with the upper bound (00_scope). -/
def clamp (lo hi v : Nat) : Nat := if v < lo then lo else if hi < v then hi else v

/-- A value that saturates stops at the limit of its range (00_scope). -/
def satAdd (limit a b : Nat) : Nat := min limit (a + b)

end Sys2Proof
end

