-- ==== Sys2Proof/Syntax.lean ====
section
/-! DEFINITION. The commands of the part: one constructor for each row of spec/opcode_table.json. -/

namespace Sys2Proof

/-- The two received highway directions (R2). -/
inductive Direction
  /-- Line-side upstream, received from the line equipment. -/
  | lu
  /-- Switch-side downstream, received from the switch. -/
  | sd
  deriving DecidableEq, Repr

/-- The 50 slots of one received frame, slot 0 first (R1). -/
abbrev Slots := Vector SlotWord 50

/-- The report of an ended digit (R61). -/
structure DigitReport where
  pulses : Nat
  distorted : Nat
  rejected : Bool
  speedOut : Bool
  speed : Option Nat
  deriving DecidableEq, Repr

/-- The commands. A request row carries its TAG and its parameter octets as the message does (R161, chapter 12.2), of any
number, so that a wrong length is a form of the command too (R165). -/
inductive Instr
  /-- R16: the power-on reset pin. -/
  | powerOnReset
  /-- R5: the next bits of a received stream, in order of time, examined in HUNT. -/
  | huntMarkerFound (d : Direction) (bits : List Bool)
  /-- R5 to R7: the 800 bits at the expected position of a received stream. -/
  | markerCheck (d : Direction) (slots : Slots)
  /-- R6: the frame whose marker completes the confirmation. -/
  | alignmentLock (d : Direction) (slots : Slots)
  /-- R7: the missed marker that loses alignment. -/
  | alignmentLoss (d : Direction)
  /-- R10: one tick of the frame clock. -/
  | outputFrame
  /-- R34: the contrary L sample of one line that confirms a loop transition. -/
  | loopTransition (n : LineId)
  /-- R40: the contrary G sample of one line that completes its fault run. -/
  | faultStateChange (n : LineId)
  /-- R50: the arrival at which the seize timer of one line expires. -/
  | seizeExpiry (n : LineId)
  /-- R60, R62: the arrival at which the digit-end timer of one line expires. -/
  | digitEndExpiry (n : LineId)
  /-- R152: the digit report of one line that ends its quality window. -/
  | qualityWindowEnd (n : LineId) (report : DigitReport)
  /-- R63: the arrival at which the dial-idle timer of one line expires. -/
  | dialIdleExpiry (n : LineId)
  /-- R64: the arrival at which the clear timer of one line expires. -/
  | clearExpiry (n : LineId)
  /-- R14: the output frame that completes the loss hold. -/
  | lossHoldExpiry
  /-- R128: the output frame in which FIRST_WAIT of one line reaches 0. -/
  | firstWaitEnd (n : LineId)
  /-- R124: one line's emitter takes its next item. -/
  | emitterTakeItem (n : LineId)
  /-- R125: the output frame after the last burst sample of one line. -/
  | burstEnd (n : LineId)
  /-- R125: the output frame after the last gap frame of one line. -/
  | gapEnd (n : LineId)
  /-- R126: the output frame after the last frame of FLASH_OUT of one line. -/
  | flashOpenEnd (n : LineId)
  /-- R126: the output frame after the last frame of GUARD of one line. -/
  | guardEnd (n : LineId)
  /-- R141: the output frame in which the zero-cross wait of one line reaches 8. -/
  | muteWaitLimit (n : LineId)
  /-- R168 step 2: the transmitter starts the oldest reply. -/
  | replyStart
  /-- R168 step 1, R169: the transmitter looks at the attention-wanted flag. -/
  | attention
  /-- R172: the last octet of the SOFT-RESET reply is sent and the reset acts. -/
  | softResetAction
  /-- R171, KIND 0x01. -/
  | identify (tag : Byte) (params : List Byte)
  /-- R159, KIND 0x02. -/
  | partStatus (tag : Byte) (params : List Byte)
  /-- R31, KIND 0x03 with no record. -/
  | partConfigRead (tag : Byte)
  /-- R31, KIND 0x03 with parameter octets. -/
  | partConfigWrite (tag : Byte) (params : List Byte)
  /-- R158, KIND 0x04. -/
  | lineStatus (tag : Byte) (params : List Byte)
  /-- R24 to R29, KIND 0x05. -/
  | lineConfig (tag : Byte) (params : List Byte)
  /-- R30, KIND 0x06. -/
  | lineReset (tag : Byte) (params : List Byte)
  /-- R18, R19, KIND 0x07. -/
  | profileWrite (tag : Byte) (params : List Byte)
  /-- R20, KIND 0x08. -/
  | profileRead (tag : Byte) (params : List Byte)
  /-- R170, KIND 0x09. -/
  | cursorSet (tag : Byte) (params : List Byte)
  /-- R90, R103, R133, KIND 0x0A. -/
  | tableWrite (tag : Byte) (params : List Byte)
  /-- R91, R103, R133, KIND 0x0B. -/
  | tableRead (tag : Byte) (params : List Byte)
  /-- R92, R104, R133, KIND 0x0C. -/
  | tableCompare (tag : Byte) (params : List Byte)
  /-- R93, R103, R134, KIND 0x0D. -/
  | tableClear (tag : Byte) (params : List Byte)
  /-- R94, R103, R134, KIND 0x0E. -/
  | tableClearcheck (tag : Byte) (params : List Byte)
  /-- R96, R105, KIND 0x0F. -/
  | setSwap (tag : Byte) (params : List Byte)
  /-- R97, R105, KIND 0x10. -/
  | setLock (tag : Byte) (params : List Byte)
  /-- R98, R105, KIND 0x11. -/
  | setErase (tag : Byte) (params : List Byte)
  /-- R121, KIND 0x12. -/
  | toneInsert (tag : Byte) (params : List Byte)
  /-- R129, KIND 0x13. -/
  | emitHold (tag : Byte) (params : List Byte)
  /-- R129, KIND 0x14. -/
  | emitResume (tag : Byte) (params : List Byte)
  /-- R116, KIND 0x15. -/
  | captureRead (tag : Byte) (params : List Byte)
  /-- R154, KIND 0x16. -/
  | qualityRead (tag : Byte) (params : List Byte)
  /-- R172, KIND 0x17. -/
  | softReset (tag : Byte) (params : List Byte)
  /-- R165: a request whose KIND names none of the 23 requests. -/
  | unknownRequest (kind tag : Byte) (params : List Byte)
  deriving DecidableEq, Repr

end Sys2Proof
end

