-- ==== Sys2Proof/Decode.lean ====
section
/-! DEFINITION. The commands that a word of the opcode table spells. -/

namespace Sys2Proof

/-- No row of spec/opcode_table.json gives bits, so no word spells a command by the table. -/
def decodeTableWord (_nbits _w : Nat) : Option Instr := none

end Sys2Proof
end

