-- ==== Sys2Proof/Config.lean ====
section
/-! DEFINITION. What the manual leaves open: free values, constants with no body that no proof can evaluate. -/

namespace Sys2Proof

/-- R122: when the end of an inserted symbol's gap and a clear of its call fall on the same output frame, either may be
taken first. The i-th such coincidence takes the return to QUIET first exactly when this free value is true (log entry 8). -/
opaque Config.gapEndBeforeClear : Nat → Bool

/-- The quotient of a division by zero, which R80 shows never to arise in operation (log entry 13). -/
opaque Config.quotientByZero : Nat → Nat

end Sys2Proof
end

