-- ==== Sys2Proof/Machine/State.lean ====
section
/-! DEFINITION. Everything the spec gives the part to hold, as plain data, and its value after power-on reset. -/

namespace Sys2Proof.Machine

/-! ## Ports (chapter 1) -/

/-- The states of an alignment machine (section 1.3). -/
inductive AlignState
  | hunt | confirm | locked | flywheel
  deriving DecidableEq, Repr

/-- One alignment machine (R5 to R7). `window` and `seen` hold the last bits examined in HUNT, at most 16. -/
structure Aligner where
  state : AlignState
  confirmCount : Nat
  misses : Nat
  window : SlotWord
  seen : Nat
  deriving DecidableEq, Repr

/-- What paces the output frames (R4). -/
inductive ClockSource
  | freeRunning | sd
  deriving DecidableEq, Repr

/-- A running loss hold: its length and the output frames counted so far (R13). -/
structure LossHold where
  length : Nat
  counted : Nat
  deriving DecidableEq, Repr

/-- The three fields of a channel slot (R1). -/
structure Channel where
  voice : Sample
  a : Bool
  b : Bool
  deriving DecidableEq, Repr

/-- The channels of the 48 lines. -/
abbrev Channels := Vector Channel 48

/-- The content of a frame (R1). -/
structure Frame where
  marker : SlotWord
  mgmtHigh : Byte
  mgmtLow : Byte
  channels : Channels
  deriving DecidableEq, Repr

/-! ## Configuration (chapter 2) -/

/-- A line profile: the 24 fields of R17, in its units. -/
structure Profile where
  openProt : Nat
  closeProt : Nat
  seizeMin : Nat
  pulseMin : Nat
  pulseMax : Nat
  flashMin : Nat
  flashMax : Nat
  endFirst : Nat
  endMin : Nat
  endMax : Nat
  endMult : Nat
  endFixed : Bool
  ratioMin : Nat
  ratioMax : Nat
  speedMin : Nat
  speedMax : Nat
  dialIdle : Nat
  xlatSet : Fin 8
  codeSet : Option (Fin 4)
  toneOn : Nat
  toneGap : Nat
  flashOpen : Nat
  flashGuard : Nat
  firstDelay : Nat
  deriving DecidableEq, Repr

/-- MODE of a line (R23). -/
inductive Mode
  | convert | pass | parked
  deriving DecidableEq, Repr

/-- METER_MODE of a line (R23). -/
inductive MeterMode
  | resetOnRead | hold
  deriving DecidableEq, Repr

/-- A set of the nine line events, by the bit positions of chapter 12.3. -/
abbrev LineEventSet := BitVec 9

/-- A set of the six part events, by the bit positions of chapter 12.3. -/
abbrev PartEventSet := BitVec 6

/-- The line configuration record (R23). -/
structure LineConfig where
  mode : Mode
  pendingMode : Option Mode
  profile : Fin 8
  eventMask : LineEventSet
  lineMute : Bool
  endOverride : Option Nat
  meterMode : MeterMode
  deriving DecidableEq, Repr

/-- The part configuration (R31). -/
structure PartConfig where
  fwdProt : Nat
  backProt : Nat
  lossHold : Nat
  qualWindow : Nat
  qualLimit : Nat
  rejLimit : Nat
  partMask : PartEventSet
  deriving DecidableEq, Repr

/-! ## Loop Filter (chapter 3) -/

/-- The two loop states (R33). -/
inductive LoopState
  | opened | closed
  deriving DecidableEq, Repr

/-- The five quantities of a Loop Filter (R33): S, A, r, F and the fault run. -/
structure Filter where
  loop : LoopState
  age : Nat
  run : Nat
  fault : Bool
  faultRun : Nat
  deriving DecidableEq, Repr

/-! ## Tables (chapters 6, 7 and 8) -/

/-- The two pages of a set. -/
inductive Page
  | a | b
  deriving DecidableEq, Repr

/-- A set of two pages with their roles, bound counts and lock (R84, R101). Exactly one page is ACTIVE: `active`. -/
structure PagedSet (α : Type) (size : Nat) where
  pageA : Vector α size
  pageB : Vector α size
  active : Page
  boundA : Nat
  boundB : Nat
  locked : Bool
  deriving DecidableEq, Repr

/-- The 19 values of a translation entry (R83). -/
inductive TransValue
  | symbol (s : Symbol)
  | ignore
  | flash
  | reject
  deriving DecidableEq, Repr

/-- A translation set (R84). -/
abbrev TransSet := PagedSet TransValue 20

/-- The actions of a code entry (R100). -/
inductive CodeAction
  | pass | capture | substitute
  deriving DecidableEq, Repr

/-- A code entry (R100); `isEnd` is END. -/
structure CodeEntry where
  isEnd : Bool
  code : List Symbol
  action : Option CodeAction
  notify : Bool
  replacement : List Symbol
  deriving DecidableEq, Repr

/-- A code set (R101). -/
abbrev CodeSet := PagedSet CodeEntry 16

/-- A tone entry (R132). -/
structure ToneEntry where
  fLow : Nat
  fHigh : Nat
  aLow : Nat
  aHigh : Nat
  deriving DecidableEq, Repr

/-! ## Dial Decoder (chapters 4 and 5) -/

/-- The states a break can begin from: the values of open-from (R46). -/
inductive DigitPhase
  | offhook | indigit | discard
  deriving DecidableEq, Repr

/-- The four decoder states that have a call record (R45). OPEN carries open-from (R52, log entry 16). -/
inductive CallState
  | closed (phase : DigitPhase)
  | opened (openFrom : DigitPhase)
  deriving DecidableEq, Repr

/-- The match phase (R51). -/
inductive MatchPhase
  | matching | free
  deriving DecidableEq, Repr

/-- A page of a translation set. -/
structure TransPage where
  set : Fin 8
  page : Page
  deriving DecidableEq, Repr

/-- A page of a code set. -/
structure CodePage where
  set : Fin 4
  page : Page
  deriving DecidableEq, Repr

/-- The call record (R46), but for open-from, which `CallState` carries. A threshold not yet computed is absent. -/
structure Call where
  transPage : TransPage
  codePage : Option CodePage
  phase : MatchPhase
  held : List Symbol
  fallback : Option Nat
  pulses : Nat
  makeAcc : Nat
  makeSum : Nat
  makeCount : Nat
  periodSum : Nat
  lastBreak : Nat
  distorted : Nat
  learned : Option Nat
  threshold : Option Nat
  dialIdle : Nat
  deriving DecidableEq, Repr

/-- The decoder: IDLE, SEIZING, FAULT, or one of the four states with a call record (R45). -/
inductive Decoder
  | idle
  | seizing
  | fault
  | inCall (state : CallState) (call : Call)
  deriving DecidableEq, Repr

/-! ## Tone Emitter (chapter 8) -/

/-- An item of the emission queue (R117). -/
inductive Item
  | digit (s : Symbol)
  | flash
  deriving DecidableEq, Repr

/-- The condition of an occupied insert slot (R120). -/
inductive SlotCondition
  | waiting | emitting
  deriving DecidableEq, Repr

/-- The record of an occupied insert slot (R120). -/
structure InsertSlot where
  symbol : Symbol
  notify : Bool
  condition : SlotCondition
  deriving DecidableEq, Repr

/-- A burst in progress: the item's symbol, the four values read at its taking (R135), the number of the sample of the
present output frame, the output frames of TONE after it, and the gap length read at the taking (R124). -/
structure Burst where
  symbol : Symbol
  incLow : Nat
  incHigh : Nat
  ampLow : Nat
  ampHigh : Nat
  sample : Nat
  remaining : Nat
  gapLength : Nat
  deriving DecidableEq, Repr

/-- The five emitter states (R123); `remaining` counts the output frames of the state after the present one. -/
inductive EmitterState
  | quiet
  | tone (burst : Burst)
  | gap (remaining : Nat)
  | flashOut (remaining guardLength : Nat)
  | guard (remaining : Nat)
  deriving DecidableEq, Repr

/-- A line's emitter, queue, insert slot and flags (R117, R120, R123); `firstWait` absent means FIRST_WAIT is clear. -/
structure Emission where
  state : EmitterState
  queue : List Item
  slot : Option InsertSlot
  hold : Bool
  firstWait : Option Nat
  deriving DecidableEq, Repr

/-! ## Voice Selector (chapter 9) -/

/-- The mute state; PENDING has a wait count (R141). -/
inductive MuteState
  | passing
  | pending (wait : Nat)
  | muted
  deriving DecidableEq, Repr

/-- The set of mute sources present (R140). -/
structure Sources where
  a : Bool
  b : Bool
  c : Bool
  d : Bool
  e : Bool
  deriving DecidableEq, Repr

/-- The mute state, and what the latest output frame showed for the voice report (R149). -/
structure Voice where
  mute : MuteState
  shownHook : Bool
  shownFault : Bool
  shownSources : Sources
  deriving DecidableEq, Repr

/-! ## Quality Monitor and Event Unit (chapter 10) -/

/-- The eight counters of a window (R150). -/
structure Counters where
  digitsEnded : Nat
  pulses : Nat
  distorted : Nat
  glitches : Nat
  abortedRuns : Nat
  rejected : Nat
  speedOut : Nat
  falseSeizures : Nat
  deriving DecidableEq, Repr

/-- The speed extremes (R150). -/
structure Extremes where
  slowest : Nat
  fastest : Nat
  deriving DecidableEq, Repr

/-- What a Quality Monitor holds (R150). -/
structure Quality where
  current : Counters
  last : Option Counters
  extremes : Option Extremes
  deriving DecidableEq, Repr

/-- The reject reasons (R155). -/
inductive RejectReason
  | overlong | malformed | table
  deriving DecidableEq, Repr

/-- A capture (R115). -/
structure CaptureRecord where
  offset : Nat
  code : List Symbol
  overwrites : Nat
  deriving DecidableEq, Repr

/-- Everything one line holds. -/
structure Line where
  config : LineConfig
  filter : Filter
  decoder : Decoder
  emission : Emission
  voice : Voice
  quality : Quality
  capture : Option CaptureRecord
  events : LineEventSet
  rejectReason : Option RejectReason
  deriving DecidableEq, Repr

/-! ## Management Channel (chapter 11) -/

/-- The receiver and what it has gathered (R162). -/
inductive Receiver
  | seek
  | length
  | body (len : Nat) (got : List Byte)
  | check (got : List Byte) (first : Option Byte)
  deriving DecidableEq, Repr

/-- A request: KIND, TAG and parameter octets (R161). -/
structure Request where
  kind : Byte
  tag : Byte
  params : List Byte
  deriving DecidableEq, Repr

/-- The refusal codes (R167). -/
inductive RefusalCode
  | format | unknown | range | value | order | active | bound | locked | busy | nocall
  deriving DecidableEq, Repr

/-- What the table cursor's kind and set name (R170). -/
inductive TableRef
  | trans (set : Fin 8)
  | code (set : Fin 4)
  | tone
  deriving DecidableEq, Repr

/-- The table cursor (R170). -/
structure Cursor where
  table : TableRef
  page : Page
  offset : Nat
  autoIncrement : Bool
  deriving DecidableEq, Repr

/-- An entry of one of the three kinds of table. -/
inductive Entry
  | trans (v : TransValue)
  | code (e : CodeEntry)
  | tone (t : ToneEntry)
  deriving DecidableEq, Repr

/-- The state of the insert slot as the emitter report shows it (R137). -/
inductive SlotReport
  | empty | waiting | emitting
  deriving DecidableEq, Repr

/-- The emitter report (R137); `state` is the code of the emitter state (chapter 12.3). -/
structure EmitterReport where
  state : Nat
  hold : Bool
  firstWait : Option Nat
  slot : SlotReport
  waiting : Nat
  deriving DecidableEq, Repr

/-- The voice report (R149). -/
structure VoiceReport where
  hook : Bool
  fault : Bool
  mute : MuteState
  sources : Sources
  deriving DecidableEq, Repr

/-- The line report of LINE-STATUS (R158); `decoder` is the code of the decoder state (chapter 12.3). -/
structure LineReport where
  line : LineId
  events : LineEventSet
  rejectReason : Option RejectReason
  mode : Mode
  pendingMode : Option Mode
  decoder : Nat
  pulses : Nat
  loop : LoopState
  fault : Bool
  emitter : EmitterReport
  voice : VoiceReport
  deriving DecidableEq, Repr

/-- The results of an acknowledgement (chapter 12.5). -/
inductive Result
  | nothing
  | identity
  | part (flags : PartEventSet) (checkFailures discarded : Nat) (lu sd : AlignState)
  | partConfig (c : PartConfig)
  | lineReport (r : LineReport)
  | lineConfig (line : LineId) (c : LineConfig)
  | profile (number : Fin 8) (p : Profile)
  | cursor (c : Cursor)
  | cursorOffset (offset : Nat)
  | entries (es : List Entry) (page : Option (Bool × Nat)) (offset : Nat)
  | compared (mismatch : Option (Nat × Entry × Entry)) (offset : Nat)
  | clearCheck (found : Option (Nat × Entry))
  | setState (active : Page) (locked : Bool) (boundA boundB : Nat)
  | emitter (r : EmitterReport)
  | capture (c : Option CaptureRecord)
  | quality (q : Quality)
  deriving DecidableEq, Repr

/-- What a reply says: an ACK with its two flags and results, or a REFUSE with its code (R166). -/
inductive Answer
  | ack (clamped deferred : Bool) (result : Result)
  | refuse (code : RefusalCode)
  deriving DecidableEq, Repr

/-- A reply with the TAG and KIND of the request it answers (R166). `softReset` marks the acknowledgement of the pending
soft reset, whose transmission brings the reset (R172). -/
structure Reply where
  tag : Byte
  kind : Byte
  answer : Answer
  softReset : Bool
  deriving DecidableEq, Repr

/-- A message in transmission: the octets still to be sent. -/
structure Transmission where
  rest : List Byte
  softReset : Bool
  deriving DecidableEq, Repr

/-- The two kinds of message the transmitter sends (R168). -/
inductive SentKind
  | reply | notice
  deriving DecidableEq, Repr

/-! ## The part -/

/-- The state of the part. `raceCount` is the model's own field (log entry 8), `pending` the queue of commands. -/
structure State where
  lu : Aligner
  sd : Aligner
  clock : ClockSource
  lossHold : Option LossHold
  waiting : Option Channels
  paced : List Channels
  lastVoice : Vector Sample 48
  su : Frame
  ld : Frame
  profiles : Vector Profile 8
  part : PartConfig
  xlat : Vector TransSet 8
  code : Vector CodeSet 4
  tones : Vector ToneEntry 16
  lines : Vector Line 48
  partEvents : PartEventSet
  checkFailures : Nat
  discardedRequests : Nat
  attention : Bool
  receiver : Receiver
  slot : Option Request
  replies : List Reply
  tx : Option Transmission
  lastSent : SentKind
  softReset : Bool
  cursor : Cursor
  raceCount : Nat
  pending : List Instr
  deriving DecidableEq, Repr

/-! ## Stops -/

/-- Why a step stops with a fault. -/
inductive Fault
  /-- Raised by a command whose term is not well formed (`Instr.wf`): it names nothing the outside world can do to the part.
  Safe: the part never meets such a command (log entry 20). -/
  | illFormed
  deriving DecidableEq, Repr

/-- Why a command has no meaning. -/
inductive Refusal
  /-- Raised by the dispatch for a row that has no meaning yet. Safe: nothing can be proved about its effect. -/
  | notModelled (mnemonic : String)
  deriving DecidableEq, Repr

/-! ## Values after power-on reset -/

/-- R16: HUNT, no counts, nothing examined yet (log entry 11). -/
def Aligner.reset : Aligner := ⟨.hunt, 0, 0, 0, 0⟩

/-- An idle channel: a voice sample of 0 with both bits 0 (R3, R16). -/
def Channel.zero : Channel := ⟨0, false, false⟩

/-- The frame before the first output frame: marker, fill and idle channels (log entry 9). -/
def Frame.idle : Frame := ⟨markerWord, 0, 0, Vector.replicate 48 Channel.zero⟩

/-- The defaults of R17. -/
def Profile.default : Profile where
  openProt := 16
  closeProt := 24
  seizeMin := 60
  pulseMin := 30
  pulseMax := 120
  flashMin := 180
  flashMax := 600
  endFirst := 150
  endMin := 60
  endMax := 400
  endMult := 24
  endFixed := false
  ratioMin := 50
  ratioMax := 75
  speedMin := 70
  speedMax := 140
  dialIdle := 8000
  xlatSet := 0
  codeSet := none
  toneOn := 70
  toneGap := 70
  flashOpen := 250
  flashGuard := 300
  firstDelay := 300

/-- The power-on values of R23. -/
def LineConfig.reset : LineConfig := ⟨.convert, none, 0, 0x1FF, false, none, .resetOnRead⟩

/-- The defaults of R31. -/
def PartConfig.default : PartConfig := ⟨4, 3, 1000, 100, 20, 5, 0x3F⟩

/-- R44. -/
def Filter.reset : Filter := ⟨.opened, 0, 0, false, 0⟩

/-- The cleared value of a code entry (R100). -/
def CodeEntry.cleared : CodeEntry := ⟨true, [], none, false, []⟩

/-- An unlocked, unbound set with page A ACTIVE and every entry of both pages at one value. -/
def PagedSet.cleared {α : Type} {size : Nat} (v : α) : PagedSet α size :=
  ⟨Vector.replicate size v, Vector.replicate size v, .a, 0, 0, false⟩

/-- R85: the power-on page A of set 0: counts 1–9 give the symbols 1–9, count 10 gives 0, counts 11–20 REJECT. -/
def decadicPage : Vector TransValue 20 :=
  ⟨#[.symbol 1, .symbol 2, .symbol 3, .symbol 4, .symbol 5, .symbol 6, .symbol 7, .symbol 8, .symbol 9, .symbol 0,
    .reject, .reject, .reject, .reject, .reject, .reject, .reject, .reject, .reject, .reject], rfl⟩

/-- R85: the eight translation sets at power-on. -/
def TransSet.resetAll : Vector TransSet 8 :=
  (Vector.replicate 8 (PagedSet.cleared TransValue.reject)).set 0
    { PagedSet.cleared (size := 20) TransValue.reject with pageA := decadicPage }

/-- R101: the four code sets at power-on. -/
def CodeSet.resetAll : Vector CodeSet 4 := Vector.replicate 4 (PagedSet.cleared CodeEntry.cleared)

/-- A power-on tone entry: A_LOW 1000 and A_HIGH 1260 (R132). -/
def ToneEntry.ofPair (fLow fHigh : Nat) : ToneEntry := ⟨fLow, fHigh, 1000, 1260⟩

/-- R132: the power-on tone table, symbols 0–9, *, #, A, B, C, D. -/
def ToneEntry.resetAll : Vector ToneEntry 16 :=
  ⟨#[.ofPair 941 1336, .ofPair 697 1209, .ofPair 697 1336, .ofPair 697 1477, .ofPair 770 1209, .ofPair 770 1336,
    .ofPair 770 1477, .ofPair 852 1209, .ofPair 852 1336, .ofPair 852 1477, .ofPair 941 1209, .ofPair 941 1477,
    .ofPair 697 1633, .ofPair 770 1633, .ofPair 852 1633, .ofPair 941 1633], rfl⟩

/-- R138: QUIET, queue and slot empty, HOLD and FIRST_WAIT clear. -/
def Emission.idle : Emission := ⟨.quiet, [], none, false, none⟩

/-- R149: MUTED; before the first output frame H on-hook, K 0 and source e present (log entry 10). -/
def Voice.reset : Voice := ⟨.muted, false, false, ⟨false, false, false, false, true⟩⟩

/-- All eight counters 0. -/
def Counters.zero : Counters := ⟨0, 0, 0, 0, 0, 0, 0, 0⟩

/-- R150. -/
def Quality.reset : Quality := ⟨Counters.zero, none, none⟩

/-- A line after power-on reset. -/
def Line.reset : Line :=
  ⟨LineConfig.reset, Filter.reset, .idle, Emission.idle, Voice.reset, Quality.reset, none, 0, none⟩

/-- R170. -/
def Cursor.reset : Cursor := ⟨.trans 0, .a, 0, false⟩

/-- The part right after power-on reset (R16, R17, R23, R31, R44, R71, R85, R101, R115, R132, R138, R149, R150, R155,
R156, R160, R173), with no command waiting. -/
def State.reset : State where
  lu := Aligner.reset
  sd := Aligner.reset
  clock := .freeRunning
  lossHold := none
  waiting := none
  paced := []
  lastVoice := Vector.replicate 48 0
  su := Frame.idle
  ld := Frame.idle
  profiles := Vector.replicate 8 Profile.default
  part := PartConfig.default
  xlat := TransSet.resetAll
  code := CodeSet.resetAll
  tones := ToneEntry.resetAll
  lines := Vector.replicate 48 Line.reset
  partEvents := 0
  checkFailures := 0
  discardedRequests := 0
  attention := false
  receiver := .seek
  slot := none
  replies := []
  tx := none
  lastSent := .notice
  softReset := false
  cursor := Cursor.reset
  raceCount := 0
  pending := []

end Sys2Proof.Machine
end

