-- ==== Sys2Proof/Machine/Ops.lean ====
section
/-! DEFINITION. The named operations over the part's registers, tables and lines. -/

namespace Sys2Proof.Machine

/-- Changes the value at one index of a fixed-length table. -/
def vmod {α : Type} {size : Nat} (v : Vector α size) (i : Fin size) (f : α → α) : Vector α size :=
  v.set i.val (f (v.get i)) i.isLt

/-- Writes values at consecutive offsets, the first at `offset` (R90). -/
def vwrite {α : Type} {size : Nat} (v : Vector α size) (offset : Nat) : List α → Vector α size
  | [] => v
  | x :: xs => vwrite (v.setIfInBounds offset x) (offset + 1) xs

/-- Division rounding down; R80 shows that no divisor is 0, and if one were the quotient is a free value (log entry 13). -/
def floorDiv (a b : Nat) : Nat := if b = 0 then Config.quotientByZero a else a / b

/-! ## Lines -/

/-- What line `n` holds. -/
def State.line (s : State) (n : LineId) : Line := s.lines.get n

/-- Changes what one line holds. -/
def State.modLine (s : State) (n : LineId) (f : Line → Line) : State := { s with lines := vmod s.lines n f }

/-- The profile that the line's PROFILE names at this moment (R21). -/
def State.profileOf (s : State) (n : LineId) : Profile := s.profiles.get (s.line n).config.profile

/-- The open call record of a decoder, if it has one (R45). -/
def Decoder.call : Decoder → Option Call
  | .inCall _ c => some c
  | .idle | .seizing | .fault => none

/-- Changes the call record where there is one, whichever state holds it. -/
def Decoder.mapCall (f : Call → Call) : Decoder → Decoder
  | .inCall st c => .inCall st (f c)
  | .idle => .idle
  | .seizing => .seizing
  | .fault => .fault

/-- The line's open call record (R46). -/
def State.callOf (s : State) (n : LineId) : Option Call := (s.line n).decoder.call

/-- Changes the line's call record where it has one. -/
def State.modCall (s : State) (n : LineId) (f : Call → Call) : State :=
  s.modLine n fun l => { l with decoder := l.decoder.mapCall f }

/-- Sets the decoder of a line. -/
def State.setDecoder (s : State) (n : LineId) (d : Decoder) : State := s.modLine n fun l => { l with decoder := d }

/-- All 48 line numbers, in order. -/
def allLines : List LineId := List.finRange 48

/-- Does the same to every line in turn. -/
def forLines (f : LineId → State → State) (s : State) : State := allLines.foldl (fun t n => f n t) s

/-! ## Sets of two pages (R84, R101) -/

/-- The other page of the set. -/
def Page.other : Page → Page
  | .a => .b
  | .b => .a

/-- The entries of a page. -/
def PagedSet.entries {α : Type} {size : Nat} (p : PagedSet α size) : Page → Vector α size
  | .a => p.pageA
  | .b => p.pageB

/-- Replaces the entries of a page. -/
def PagedSet.setEntries {α : Type} {size : Nat} (p : PagedSet α size) (page : Page) (es : Vector α size) : PagedSet α size :=
  match page with
  | .a => { p with pageA := es }
  | .b => { p with pageB := es }

/-- The bound count of a page. -/
def PagedSet.bound {α : Type} {size : Nat} (p : PagedSet α size) : Page → Nat
  | .a => p.boundA
  | .b => p.boundB

/-- A call binds a page: its bound count increases by one (R86). -/
def PagedSet.bind {α : Type} {size : Nat} (page : Page) (p : PagedSet α size) : PagedSet α size :=
  match page with
  | .a => { p with boundA := p.boundA + 1 }
  | .b => { p with boundB := p.boundB + 1 }

/-- A call bound to a page clears: its bound count decreases by one (R86). -/
def PagedSet.unbind {α : Type} {size : Nat} (page : Page) (p : PagedSet α size) : PagedSet α size :=
  match page with
  | .a => { p with boundA := p.boundA - 1 }
  | .b => { p with boundB := p.boundB - 1 }

/-- Binds a call to its pages (R51, R86). -/
def State.bindPages (s : State) (t : TransPage) (c : Option CodePage) : State :=
  { s with
    xlat := vmod s.xlat t.set (PagedSet.bind t.page)
    code := match c with
      | none => s.code
      | some k => vmod s.code k.set (PagedSet.bind k.page) }

/-- Returns the bindings of a call that clears (R66 step 4). -/
def State.unbindPages (s : State) (t : TransPage) (c : Option CodePage) : State :=
  { s with
    xlat := vmod s.xlat t.set (PagedSet.unbind t.page)
    code := match c with
      | none => s.code
      | some k => vmod s.code k.set (PagedSet.unbind k.page) }

/-! ## Alignment and line time -/

/-- An alignment machine is up in LOCKED and FLYWHEEL (section 1.3). -/
def Aligner.up (a : Aligner) : Bool := a.state = .locked || a.state = .flywheel

/-- What a sample arrival of a line brings about, taken by itself: nothing while LU is not up, for then no frame is carried, no
sample arrives, and filter, decoder and every line timer stand still (R11, R43, R48, R69). -/
def atArrival (s t : State) : State := if s.lu.up then t else s

/-! ## The clear of a call (R66) -/

/-- Ends the line's call, if one is open, and puts the decoder into the state that the cause gives (R65, R66): the digit in
progress and the match context go with the record, the pages are unbound, the emitter is stopped at once, its queue and
insert slot are emptied, and HOLD and FIRST_WAIT are cleared (R130). -/
def clearCall (n : LineId) (after : Decoder) (s : State) : State :=
  match (s.line n).decoder with
  | .inCall _ c => (s.unbindPages c.transPage c.codePage).modLine n fun l => { l with decoder := after, emission := Emission.idle }
  | .idle | .seizing | .fault => s.setDecoder n after

end Sys2Proof.Machine
end

