-- ==== Sys2Proof/Machine/LoopFilter.lean ====
section
/-! DEFINITION. The Loop Filter (chapter 3). -/

namespace Sys2Proof.Machine

/-- What a loop sample brings the line's consumers (R36): nothing, an aborted run, or a confirmed transition to a state with
the duration D of the state it ends. -/
inductive LoopResult
  | nothing
  | aborted
  | confirmed (now : LoopState) (duration : Nat)
  deriving DecidableEq, Repr

/-- The other loop state. -/
def LoopState.other : LoopState → LoopState
  | .opened => .closed
  | .closed => .opened

/-- The loop state that an L sample shows: 1 is closed (R33). -/
def LoopState.ofSample (l : Bool) : LoopState := if l then .closed else .opened

/-- The measured length of the current stable state, A − r (R36). -/
def Filter.measured (f : Filter) : Nat := f.age - f.run

/-- The protection count of a run toward the other state: OPEN_PROT if S is CLOSED, CLOSE_PROT if S is OPEN (R34). -/
def Filter.protection (f : Filter) (p : Profile) : Nat :=
  match f.loop with
  | .closed => p.openProt
  | .opened => p.closeProt

/-- An agreeing L sample: A grows, saturating, and a run in progress is aborted (R35). -/
def Filter.agree (f : Filter) : Filter × LoopResult :=
  ({ f with age := satAdd 65535 f.age 1, run := 0 }, if f.run = 0 then .nothing else .aborted)

/-- A contrary L sample: A and r grow; when r reaches the protection count the transition is confirmed with D = A − r,
S takes the other value, A is set to r and r to 0 (R34). -/
def Filter.contrary (f : Filter) (protection : Nat) : Filter × LoopResult :=
  let age := satAdd 65535 f.age 1
  let run := f.run + 1
  if run < protection then ({ f with age := age, run := run }, .nothing)
  else ({ f with loop := f.loop.other, age := run, run := 0 }, .confirmed f.loop.other (age - run))

/-- The L sample that agrees with the stable loop state (R33, R35). -/
def Filter.stableSample (f : Filter) : Bool := f.loop = .closed

/-- One L sample (R34, R35). -/
def Filter.takeLoop (f : Filter) (p : Profile) (l : Bool) : Filter × LoopResult :=
  if LoopState.ofSample l = f.loop then f.agree else f.contrary (f.protection p)

/-- One G sample (R40): the new filter and the value that F has taken, if it changed. -/
def Filter.takeFault (f : Filter) (g : Bool) : Filter × Option Bool :=
  if g = f.fault then ({ f with faultRun := 0 }, none)
  else if f.faultRun + 1 < 16 then ({ f with faultRun := f.faultRun + 1 }, none)
  else ({ f with fault := g, faultRun := 0 }, some g)

/-- The loop part of a filter as the loss hold expiry leaves it: OPEN, age 0, no run, fault run empty, F kept (R14, R44). -/
def Filter.linkReset (f : Filter) : Filter := { Filter.reset with fault := f.fault }

end Sys2Proof.Machine
end

