-- ==== Sys2Proof/Machine/Flags.lean ====
section
/-! DEFINITION. The event flags, the pending map and the attention-wanted flag (chapter 10). -/

namespace Sys2Proof.Machine

/-- The nine line events (R155). -/
inductive LineEvent
  | capture | codeMatch | digitReject | queueOverflow | quality | faultOn | faultOff | insertDone | linkClear
  deriving DecidableEq, Repr

/-- The flag of a line event, by the bit positions of chapter 12.3. -/
def LineEvent.bit : LineEvent → LineEventSet
  | .capture => 0x001
  | .codeMatch => 0x002
  | .digitReject => 0x004
  | .queueOverflow => 0x008
  | .quality => 0x010
  | .faultOn => 0x020
  | .faultOff => 0x040
  | .insertDone => 0x080
  | .linkClear => 0x100

/-- The six part events (R156). -/
inductive PartEvent
  | luLock | luLoss | sdLock | sdLoss | checkFail | requestDiscard
  deriving DecidableEq, Repr

/-- The flag of a part event, by the bit positions of chapter 12.3. -/
def PartEvent.bit : PartEvent → PartEventSet
  | .luLock => 0x01
  | .luLoss => 0x02
  | .sdLock => 0x04
  | .sdLoss => 0x08
  | .checkFail => 0x10
  | .requestDiscard => 0x20

/-- A line is in the pending map exactly while it has a latched event that its EVENT_MASK enables (R157). -/
def Line.inMap (l : Line) : Bool := l.events &&& l.config.eventMask != 0

/-- The part bit is in the pending map exactly while a latched part event is enabled by PART_MASK (R157). -/
def State.partInMap (s : State) : Bool := s.partEvents &&& s.part.partMask != 0

/-- Changes one line and sets the attention-wanted flag when the line enters the pending map by it (R157, R160). -/
def State.modLineMapped (s : State) (n : LineId) (f : Line → Line) : State :=
  { s.modLine n f with attention := s.attention || (!(s.line n).inMap && (f (s.line n)).inMap) }

/-- Latches a line event, whatever the mask (R155). -/
def latch (n : LineId) (e : LineEvent) (s : State) : State :=
  s.modLineMapped n fun l => { l with events := l.events ||| e.bit }

/-- Latches DIGIT-REJECT with a reason, which becomes the last reject reason (R155). -/
def latchReject (n : LineId) (r : RejectReason) (s : State) : State :=
  latch n .digitReject (s.modLine n fun l => { l with rejectReason := some r })

/-- Sets the part flags and PART_MASK and sets the attention-wanted flag when the part bit enters the pending map by it
(R157, R160). -/
def State.setPartFlags (s : State) (events : PartEventSet) (part : PartConfig) : State :=
  { s with
    partEvents := events
    part := part
    attention := s.attention || (!s.partInMap && (events &&& part.partMask != 0)) }

/-- Latches a part event, whatever the mask (R156). -/
def latchPart (e : PartEvent) (s : State) : State := s.setPartFlags (s.partEvents ||| e.bit) s.part

/-- CHECK-FAIL is raised and the check-failure counter increases by one, saturating (R156, R162). -/
def raiseCheckFail (s : State) : State :=
  latchPart .checkFail { s with checkFailures := satAdd 65535 s.checkFailures 1 }

/-- REQUEST-DISCARD is raised and the discarded-request counter increases by one, saturating (R156, R164). -/
def raiseRequestDiscard (s : State) : State :=
  latchPart .requestDiscard { s with discardedRequests := satAdd 65535 s.discardedRequests 1 }

/-- The lines of the pending map, in order (R157). -/
def State.linesInMap (s : State) : List LineId := allLines.filter fun n => (s.line n).inMap

end Sys2Proof.Machine
end

