-- ==== Sys2Proof/Machine/Matcher.lean ====
section
/-! DEFINITION. The Code Matcher and what it brings to the emission queue (chapter 7, R117, R118). -/

namespace Sys2Proof.Machine

/-- The items of one producing event join the tail of the queue; those beyond 16 are discarded, and if any was,
QUEUE-OVERFLOW is raised once (R118). -/
def bring (n : LineId) (items : List Item) (s : State) : State :=
  let queue := (s.line n).emission.queue ++ items
  let t := s.modLine n fun l => { l with emission := { l.emission with queue := queue.take 16 } }
  if 16 < queue.length then latch n .queueOverflow t else t

/-- The live entries of a code page, offset 0 first (R102). -/
def liveEntries (page : Vector CodeEntry 16) : List CodeEntry := page.toList.takeWhile fun e => !e.isEnd

/-- The classes of a live entry against the held list (R107). -/
inductive EntryClass
  | pending | complete | dead
  deriving DecidableEq, Repr

/-- Classifies an entry (R107): complete when the held list equals its code, open (here `pending`) when the held list is a
proper prefix of it, dead otherwise. -/
def classify (held : List Symbol) (e : CodeEntry) : EntryClass :=
  if held = e.code then .complete
  else if held.isPrefixOf e.code then .pending
  else .dead

/-- The fallback after an arrival (R108): the complete entry of lowest offset, unless the fallback held is lower. -/
def newFallback (old complete : Option Nat) : Option Nat :=
  match complete with
  | none => old
  | some e => match old with
    | none => some e
    | some f => some (min f e)

/-- The decision after the fallback is updated (R108). -/
inductive Verdict
  | found (offset : Nat)
  | noMatch
  | wait
  deriving DecidableEq, Repr

/-- R108: MATCH when no open entry lies below the fallback, NO-MATCH when nothing is open and there is no fallback. -/
def decideScreen (live : List CodeEntry) (held : List Symbol) (fallback : Option Nat) : Verdict :=
  match fallback with
  | some f => if (live.take f).any (fun e => classify held e = .pending) then .wait else .found f
  | none => if live.any (fun e => classify held e = .pending) then .wait else .noMatch

/-- The entries of the call's bound code page that a screen examines. -/
def State.liveOf (s : State) (c : Call) : List CodeEntry :=
  match c.codePage with
  | none => []
  | some k => liveEntries ((s.code.get k.set).entries k.page)

/-- The capture record after a CAPTURE action (R115). -/
def writeCapture (old : Option CaptureRecord) (offset : Nat) (code : List Symbol) : CaptureRecord :=
  match old with
  | none => ⟨offset, code, 0⟩
  | some r => ⟨offset, code, satAdd 255 r.overwrites 1⟩

/-- What a resolution queues for the held list (R110, R111). -/
def resolvedSymbols (held : List Symbol) : Option CodeEntry → List Symbol
  | none => held
  | some e =>
    let surplus := held.drop e.code.length
    match e.action with
    | some .pass => held.take e.code.length ++ surplus
    | some .substitute => e.replacement ++ surplus
    | some .capture => surplus
    | none => surplus

/-- The capture record and the events of a match (R111, R112). -/
def matchEffects (n : LineId) (offset : Nat) (e : CodeEntry) (s : State) : State :=
  let t := if e.action = some .capture then
      latch n .capture (s.modLine n fun l => { l with capture := some (writeCapture l.capture offset e.code) })
    else s
  if e.notify then latch n .codeMatch t else t

/-- The screen resolves on an entry or with no match (R110): the match's effects, an emptied context and phase FREE, and one
producing event with the output and, for a forced resolution by a flash, one FLASH item after it. -/
def resolve (n : LineId) (c : Call) (fallback : Option Nat) (extra : List Item) (s : State) : State :=
  let entry := fallback.bind fun f => (s.liveOf c)[f]?
  let output := (resolvedSymbols c.held entry).map Item.digit ++ extra
  let t := match fallback, entry with
    | some f, some e => matchEffects n f e s
    | _, _ => s
  bring n output (t.modCall n fun k => { k with held := [], fallback := none, phase := .free })

/-- A tone symbol reaches the Code Matcher while the call is MATCHING (R107, R108). -/
def screenSymbol (n : LineId) (sym : Symbol) (c : Call) (s : State) : State :=
  let held := c.held ++ [sym]
  let live := s.liveOf c
  let fallback := newFallback c.fallback (live.findIdx? fun e => classify held e = .complete)
  let c' := { c with held := held, fallback := fallback }
  let t := s.modCall n fun _ => c'
  match decideScreen live held fallback with
  | .wait => t
  | .found f => resolve n c' (some f) [] t
  | .noMatch => resolve n c' none [] t

/-- A tone symbol handed to the Code Matcher (R107, R113). -/
def handSymbol (n : LineId) (sym : Symbol) (s : State) : State :=
  match s.callOf n with
  | none => s
  | some c => match c.phase with
    | .matching => screenSymbol n sym c s
    | .free => bring n [.digit sym] s

/-- A flash handed to the Code Matcher: it forces resolution while MATCHING and is queued in FREE (R109, R113). -/
def handFlash (n : LineId) (s : State) : State :=
  match s.callOf n with
  | none => s
  | some c => match c.phase with
    | .matching => resolve n c c.fallback [.flash] s
    | .free => bring n [.flash] s

/-- The dial-idle expiry handed to the Code Matcher (R109). -/
def handDialIdle (n : LineId) (s : State) : State :=
  match s.callOf n with
  | none => s
  | some c => resolve n c c.fallback [] s

end Sys2Proof.Machine
end

