-- ==== Sys2Proof/Machine/Pulses.lean ====
section
/-! DEFINITION. Pulse measurement arithmetic (chapter 5), on the call record. -/

namespace Sys2Proof.Machine

/-- The clamp of an adaptive threshold: floor(mean × END_MULT / 8) between END_MIN × 8 and END_MAX × 8 (R75 rows 4 and 5). -/
def adaptiveThreshold (p : Profile) (mean : Nat) : Nat :=
  clamp (p.endMin * 8) (p.endMax * 8) (mean * p.endMult / 8)

/-- The digit-end threshold (R75): the override, else END_FIRST when fixed or without a mean make, else the adaptive value. -/
def endThreshold (override : Option Nat) (p : Profile) (mean : Option Nat) : Nat :=
  match override with
  | some v => v * 8
  | none =>
    if p.endFixed then p.endFirst * 8
    else match mean with
      | none => p.endFirst * 8
      | some m => adaptiveThreshold p m

/-- Adds to the make accumulator, saturating at 65535 (R72). -/
def Call.addMake (d : Nat) (c : Call) : Call := { c with makeAcc := satAdd 65535 c.makeAcc d }

/-- The pulse that begins a digit (R55, R73): n 1, sums and counts 0, the first-pulse threshold from the learned mean make. -/
def Call.firstPulse (override : Option Nat) (p : Profile) (d : Nat) (c : Call) : Call :=
  { c with
    pulses := 1
    lastBreak := d
    makeAcc := 0
    makeSum := 0
    makeCount := 0
    periodSum := 0
    distorted := 0
    threshold := some (endThreshold override p c.learned) }

/-- The break ratio of the last accepted pulse with the make in the accumulator: floor(100 × B / (B + M)) (R74). -/
def Call.ratio (c : Call) : Nat := floorDiv (100 * c.lastBreak) (c.lastBreak + c.makeAcc)

/-- The ratio lies outside RATIO_MIN..RATIO_MAX (R74). -/
def Call.ratioDistorted (p : Profile) (c : Call) : Bool := c.ratio < p.ratioMin || p.ratioMax < c.ratio

/-- A pulse added to a digit of fewer than 20 pulses (R73). -/
def Call.laterPulse (override : Option Nat) (p : Profile) (d : Nat) (c : Call) : Call :=
  let makeSum := satAdd 1048575 c.makeSum c.makeAcc
  let makeCount := c.makeCount + 1
  { c with
    pulses := c.pulses + 1
    lastBreak := d
    makeAcc := 0
    makeSum := makeSum
    makeCount := makeCount
    periodSum := satAdd 1048575 c.periodSum (c.lastBreak + c.makeAcc)
    distorted := c.distorted + (c.ratioDistorted p).toNat
    threshold := some (endThreshold override p (some (floorDiv makeSum makeCount))) }

/-- The overlong twenty-first pulse (R77): the make of pulse 20 joins the sums, n, k and the distorted count stay, the
threshold is computed from the mean of the 20 makes. -/
def Call.overlongPulse (override : Option Nat) (p : Profile) (c : Call) : Call :=
  let makeSum := satAdd 1048575 c.makeSum c.makeAcc
  { c with
    makeAcc := 0
    makeSum := makeSum
    periodSum := satAdd 1048575 c.periodSum (c.lastBreak + c.makeAcc)
    threshold := some (endThreshold override p (some (makeSum / 20))) }

/-- The distorted pulses an OVERLONG report carries, the ratio of pulse 20 included (R61, R77). -/
def Call.overlongDistorted (p : Profile) (c : Call) : Nat := c.distorted + (c.ratioDistorted p).toNat

/-- The speed of a completed digit of two or more pulses, in tenths of pulses per second (R78). -/
def Call.speed (c : Call) : Option Nat :=
  if 2 ≤ c.pulses then some (floorDiv 80000 (floorDiv c.periodSum (c.pulses - 1))) else none

/-- The speed lies outside SPEED_MIN..SPEED_MAX (R78). -/
def speedOutside (p : Profile) : Option Nat → Bool
  | none => false
  | some v => v < p.speedMin || p.speedMax < v

/-- The learned mean make after the digit completes (R79). -/
def Call.learn (c : Call) : Option Nat := if 1 ≤ c.makeCount then some (floorDiv c.makeSum c.makeCount) else c.learned

/-- The digit-end comparison of an arrival (R76). -/
def Call.digitDone (c : Call) (measured : Nat) : Bool := c.threshold.any (· ≤ c.makeAcc + measured)

end Sys2Proof.Machine
end

