-- ==== Sys2Proof/Machine/Quality.lean ====
section
/-! DEFINITION. The Quality Monitor (sections 10.1 and 10.2). -/

namespace Sys2Proof.Machine

/-- Adds to a counter of a window, saturating at 65535 (R150). -/
def count (a b : Nat) : Nat := satAdd 65535 a b

/-- A digit report applied to the current counters (R151). -/
def Counters.addDigit (c : Counters) (r : DigitReport) : Counters :=
  { c with
    digitsEnded := count c.digitsEnded 1
    pulses := count c.pulses r.pulses
    distorted := count c.distorted r.distorted
    rejected := count c.rejected r.rejected.toNat
    speedOut := count c.speedOut r.speedOut.toNat }

/-- The speed of a completed digit updates the extremes (R153). -/
def addSpeed (e : Option Extremes) : Option Nat → Option Extremes
  | none => e
  | some v => match e with
    | none => some ⟨v, v⟩
    | some x => some ⟨min x.slowest v, max x.fastest v⟩

/-- The QUALITY test of a finished window (R152 step 3). -/
def Counters.fails (c : Counters) (p : PartConfig) : Bool :=
  (0 < c.pulses && p.qualLimit * c.pulses ≤ c.distorted * 100) || p.rejLimit ≤ c.rejected

/-- Changes the Quality Monitor of a line. -/
def State.modQuality (s : State) (n : LineId) (f : Quality → Quality) : State :=
  s.modLine n fun l => { l with quality := f l.quality }

/-- The window ends: counters copied and zeroed, then the QUALITY test (R152). -/
def endWindow (n : LineId) (s : State) : State :=
  let c := (s.line n).quality.current
  let t := s.modQuality n fun q => { q with last := some q.current, current := Counters.zero }
  if c.fails s.part then latch n .quality t else t

/-- A digit report applied whole, before the window test (R151, R153). -/
def applyReport (n : LineId) (r : DigitReport) (s : State) : State :=
  s.modQuality n fun q => { q with current := q.current.addDigit r, extremes := addSpeed q.extremes r.speed }

/-- The digits-ended counter has reached QUAL_WINDOW, read at this moment (R32, R152). -/
def windowDone (n : LineId) (s : State) : Bool := s.part.qualWindow ≤ (s.line n).quality.current.digitsEnded

/-- A digit report: applied whole, and then the window test (R151, R152). -/
def reportDigit (n : LineId) (r : DigitReport) (s : State) : State :=
  let t := applyReport n r s
  if windowDone n t then endWindow n t else t

/-- A glitch break is reported (R54, R58, R151). -/
def reportGlitch (n : LineId) (s : State) : State :=
  s.modQuality n fun q => { q with current := { q.current with glitches := count q.current.glitches 1 } }

/-- An aborted run is reported (R35, R151). -/
def reportAborted (n : LineId) (s : State) : State :=
  s.modQuality n fun q => { q with current := { q.current with abortedRuns := count q.current.abortedRuns 1 } }

/-- A false seizure is reported (R49, R151). -/
def reportFalseSeizure (n : LineId) (s : State) : State :=
  s.modQuality n fun q => { q with current := { q.current with falseSeizures := count q.current.falseSeizures 1 } }

end Sys2Proof.Machine
end

