-- ==== Sys2Proof/Machine/DialDecoder.lean ====
section
/-! DEFINITION. The Dial Decoder (chapter 4), with call opening, page binding and translation (chapter 6). -/

namespace Sys2Proof.Machine

/-! ## Mode changes at an idle line (R26 to R28) -/

/-- The line enters a mode with no call record (R26, R28): the decoder starts in IDLE, or in FAULT on a line that enters
CONVERT while F is 1; PENDING_MODE is removed. -/
def enterMode (n : LineId) (m : Mode) (s : State) : State :=
  s.modLine n fun l =>
    { l with
      config := { l.config with mode := m, pendingMode := none }
      decoder := if m = .convert ∧ l.filter.fault = true then .fault else .idle }

/-- An event makes the line idle: a PENDING_MODE is taken (R28). -/
def becomeIdle (n : LineId) (s : State) : State :=
  match (s.line n).config.pendingMode with
  | none => s
  | some m => enterMode n m s

/-! ## Call open and clear -/

/-- The match phase at call open: MATCHING exactly when a code page is bound whose first entry does not have END set (R51). -/
def openPhase (s : State) (k : Option CodePage) : MatchPhase :=
  match k with
  | none => .free
  | some k => if (((s.code.get k.set).entries k.page).get 0).isEnd then .free else .matching

/-- The call record at call open (R46). -/
def Call.opening (t : TransPage) (k : Option CodePage) (phase : MatchPhase) : Call where
  transPage := t
  codePage := k
  phase := phase
  held := []
  fallback := none
  pulses := 0
  makeAcc := 0
  makeSum := 0
  makeCount := 0
  periodSum := 0
  lastBreak := 0
  distorted := 0
  learned := none
  threshold := none
  dialIdle := 0

/-- FIRST_WAIT as a remaining count sets it: clear at 0 (R128). -/
def firstWaitOf (frames : Nat) : Option Nat := if frames = 0 then none else some frames

/-- The ACTIVE page of the profile's XLAT_SET at this moment (R51, R86). -/
def State.openTransPage (s : State) (n : LineId) : TransPage :=
  let set := (s.profileOf n).xlatSet
  ⟨set, (s.xlat.get set).active⟩

/-- The ACTIVE page of the profile's CODE_SET at this moment, absent if CODE_SET is NONE (R51). -/
def State.openCodePage (s : State) (n : LineId) : Option CodePage :=
  (s.profileOf n).codeSet.map fun k => ⟨k, (s.code.get k).active⟩

/-- A call opens (R50, R51): pages bound, record created, FIRST_WAIT set from FIRST_DELAY, the decoder in OFFHOOK. -/
def openCall (n : LineId) (s : State) : State :=
  let t := s.openTransPage n
  let k := s.openCodePage n
  (s.bindPages t k).modLine n fun l =>
    { l with
      decoder := .inCall (.closed .offhook) (Call.opening t k (openPhase s k))
      emission := { l.emission with firstWait := firstWaitOf ((s.profileOf n).firstDelay * 8) } }

/-- A hang-up clears the call and leaves the decoder in IDLE; the line takes any PENDING_MODE (R64). -/
def hangUp (n : LineId) (s : State) : State := becomeIdle n (clearCall n .idle s)

/-! ## Digits -/

/-- The entry that a pulse count finds on the call's bound translation page: offset n − 1 (R87). -/
def State.translate (s : State) (c : Call) : TransValue :=
  (((s.xlat.get c.transPage.set).entries c.transPage.page).toList[c.pulses - 1]?).getD .reject

/-- What a translated digit hands on (R60 step 3, R87). -/
def handTranslation (n : LineId) (v : TransValue) (s : State) : State :=
  match v with
  | .symbol sym => handSymbol n sym s
  | .ignore => s
  | .flash => handFlash n s
  | .reject => latchReject n .table s

/-- The digit in progress completes with its n pulses (R60): speed, learning, translation, dial-idle restart, report; the
decoder enters OFFHOOK. -/
def completeDigit (n : LineId) (c : Call) (s : State) : State :=
  let speed := c.speed
  let v := s.translate c
  let t := s.setDecoder n (.inCall (.closed .offhook) { c with learned := c.learn, dialIdle := 0 })
  reportDigit n ⟨c.pulses, c.distorted, v = .reject, speedOutside (s.profileOf n) speed, speed⟩ (handTranslation n v t)

/-- A rejected digit's report (R61). -/
def rejectReport (pulses distorted : Nat) : DigitReport := ⟨pulses, distorted, true, false, none⟩

/-! ## Breaks (section 4.4) -/

/-- The classes of a break (R53). -/
inductive BreakClass
  | glitch | pulse | indeterminate | flash | clear
  deriving DecidableEq, Repr

/-- Classifies a break by its duration, against the profile at its close (R53). -/
def classifyBreak (p : Profile) (d : Nat) : BreakClass :=
  if d < p.pulseMin * 8 then .glitch
  else if d ≤ p.pulseMax * 8 then .pulse
  else if d < p.flashMin * 8 then .indeterminate
  else if d ≤ p.flashMax * 8 then .flash
  else .clear

/-- What one decoder input brings: the state, and whether the dial-idle count stands at the 0 that this arrival set (R47). -/
structure Taken where
  state : State
  restarted : Bool

/-- A break classified as a glitch (R54, R72). -/
def glitchBreak (n : LineId) (openFrom : DigitPhase) (c : Call) (d : Nat) (s : State) : State :=
  (reportGlitch n s).setDecoder n (.inCall (.closed openFrom) (c.addMake d))

/-- A break classified as a pulse (R55, R56, R57). -/
def pulseBreak (n : LineId) (openFrom : DigitPhase) (c : Call) (d : Nat) (s : State) : State :=
  let p := s.profileOf n
  let override := (s.line n).config.endOverride
  match openFrom with
  | .offhook => s.setDecoder n (.inCall (.closed .indigit) (c.firstPulse override p d))
  | .indigit =>
    if c.pulses < 20 then s.setDecoder n (.inCall (.closed .indigit) (c.laterPulse override p d))
    else
      reportDigit n (rejectReport 20 (c.overlongDistorted p))
        (latchReject n .overlong (s.setDecoder n (.inCall (.closed .discard) (c.overlongPulse override p))))
  | .discard => s.setDecoder n (.inCall (.closed .discard) { c with makeAcc := 0 })

/-- A break classified as indeterminate (R58). -/
def indeterminateBreak (n : LineId) (openFrom : DigitPhase) (c : Call) (s : State) : State :=
  let t := s.setDecoder n (.inCall (.closed .offhook) c)
  match openFrom with
  | .indigit => reportDigit n (rejectReport c.pulses c.distorted) (latchReject n .malformed t)
  | .offhook => reportGlitch n t
  | .discard => t

/-- A break classified as a flash (R59): a digit in progress completes first, then the flash is handed on. -/
def flashBreak (n : LineId) (openFrom : DigitPhase) (c : Call) (s : State) : Taken :=
  match openFrom with
  | .indigit => ⟨handFlash n (completeDigit n c s), true⟩
  | .offhook | .discard => ⟨handFlash n (s.setDecoder n (.inCall (.closed .offhook) c)), false⟩

/-- A confirmed close in OPEN ends the break (R53). -/
def closeBreak (n : LineId) (openFrom : DigitPhase) (c : Call) (d : Nat) (s : State) : Taken :=
  match classifyBreak (s.profileOf n) d with
  | .glitch => ⟨glitchBreak n openFrom c d s, false⟩
  | .pulse => ⟨pulseBreak n openFrom c d s, false⟩
  | .indeterminate => ⟨indeterminateBreak n openFrom c s, false⟩
  | .flash => flashBreak n openFrom c s
  | .clear => ⟨hangUp n s, false⟩

/-- A confirmed open in OFFHOOK, INDIGIT or DISCARD begins a break (R52, R72). -/
def startBreak (n : LineId) (phase : DigitPhase) (c : Call) (d : Nat) (s : State) : State :=
  match phase with
  | .offhook => s.setDecoder n (.inCall (.opened phase) c)
  | .indigit | .discard => s.setDecoder n (.inCall (.opened phase) (c.addMake d))

/-- Step 1 of R47: a confirmed loop transition to `now`, ending a state of duration `d`, in the decoder's present state.
A transition that the state table rules out changes nothing (log entry 19). -/
def takeTransition (n : LineId) (now : LoopState) (d : Nat) (s : State) : Taken :=
  match (s.line n).decoder, now with
  | .idle, .closed => ⟨s.setDecoder n .seizing, false⟩
  | .idle, .opened => ⟨s, false⟩
  | .seizing, .opened => ⟨becomeIdle n (reportFalseSeizure n (s.setDecoder n .idle)), false⟩
  | .seizing, .closed => ⟨s, false⟩
  | .fault, _ => ⟨s, false⟩
  | .inCall (.closed phase) c, .opened => ⟨startBreak n phase c d s, false⟩
  | .inCall (.closed _) _, .closed => ⟨s, false⟩
  | .inCall (.opened openFrom) c, .closed => closeBreak n openFrom c d s
  | .inCall (.opened _) _, .opened => ⟨s, false⟩

/-! ## Timers (R37, R47 step 2) -/

/-- The seize timer of a decoder in SEIZING has reached SEIZE_MIN × 8 (R50). -/
def seizeDue (n : LineId) (s : State) : Bool :=
  (s.line n).decoder = .seizing && (s.profileOf n).seizeMin * 8 ≤ (s.line n).filter.measured

/-- The clear timer of a decoder in OPEN has exceeded FLASH_MAX × 8 (R64). -/
def clearDue (n : LineId) (s : State) : Bool :=
  match (s.line n).decoder with
  | .inCall (.opened _) _ => (s.profileOf n).flashMax * 8 + 1 ≤ (s.line n).filter.measured
  | _ => false

/-- The digit-end timer of a decoder in INDIGIT or DISCARD has reached the threshold in force (R60, R62, R76). -/
def digitEndDue (n : LineId) (s : State) : Bool :=
  match (s.line n).decoder with
  | .inCall (.closed .indigit) c | .inCall (.closed .discard) c => c.digitDone (s.line n).filter.measured
  | _ => false

/-- The digit-end expiry: from INDIGIT the digit completes (R60), from DISCARD the discard ends (R62). -/
def digitEnd (n : LineId) (s : State) : Taken :=
  match (s.line n).decoder with
  | .inCall (.closed .indigit) c => ⟨completeDigit n c s, true⟩
  | .inCall (.closed .discard) c => ⟨s.setDecoder n (.inCall (.closed .offhook) c), false⟩
  | _ => ⟨s, false⟩

/-- Step 2 of R47: the timer of the present state, if it has reached its threshold, expires. -/
def takeTimers (n : LineId) (s : State) : Taken :=
  if seizeDue n s then ⟨openCall n s, true⟩
  else if clearDue n s then ⟨hangUp n s, false⟩
  else if digitEndDue n s then digitEnd n s
  else ⟨s, false⟩

/-- The dial-idle count after one more arrival has reached DIAL_IDLE × 8 while MATCHING (R63). -/
def dialIdleDue (n : LineId) (s : State) : Bool :=
  match s.callOf n with
  | some c => c.phase = .matching && (s.profileOf n).dialIdle * 8 ≤ satAdd 262143 c.dialIdle 1
  | none => false

/-- The dial-idle count of an open call increases by one, stopping at 262143 (R63). -/
def countDialIdle (n : LineId) (s : State) : State :=
  s.modCall n fun c => { c with dialIdle := satAdd 262143 c.dialIdle 1 }

/-- The arrival brings the dial-idle expiry at step 3 of R47, after what its timers brought: a digit that completes at it, or a call that
opens, restarts the count first (R63). -/
def dialIdleExpires (n : LineId) (s : State) : Bool :=
  let second := takeTimers n s
  !second.restarted && dialIdleDue n second.state

/-- Step 3 of R47 where the count does not stand at a fresh 0 (R63). -/
def takeDialIdle (n : LineId) (s : State) : State :=
  if dialIdleDue n s then handDialIdle n (countDialIdle n s) else countDialIdle n s

/-! ## One sample arrival (R41, R47) -/

/-- Steps 2 and 3 of R47, after what step 1 brought. -/
def laterSteps (n : LineId) (first : Taken) : State :=
  let second := takeTimers n first.state
  if first.restarted || second.restarted then second.state else takeDialIdle n second.state

/-- Step 1 of R47: the loop result of the arrival. -/
def takeLoopResult (n : LineId) (r : LoopResult) (s : State) : Taken :=
  match r with
  | .confirmed now d => takeTransition n now d s
  | .aborted => ⟨reportAborted n s, false⟩
  | .nothing => ⟨s, false⟩

/-- Steps 1 to 3 of R47 on a CONVERT line. -/
def decodeArrival (n : LineId) (r : LoopResult) (s : State) : State := laterSteps n (takeLoopResult n r s)

/-- The consumers of a loop result, by the line's mode (R42). -/
def consumeLoop (n : LineId) (r : LoopResult) (s : State) : State :=
  match (s.line n).config.mode with
  | .convert => decodeArrival n r s
  | .pass => match r with
    | .confirmed .opened _ => becomeIdle n s
    | _ => s
  | .parked => s

/-- Replaces a line's filter. -/
def State.setFilter (s : State) (n : LineId) (f : Filter) : State := s.modLine n fun l => { l with filter := f }

/-- One L sample with its consequences (R34, R35, R41, R42). -/
def loopSample (n : LineId) (l : Bool) (s : State) : State :=
  let (f, r) := (s.line n).filter.takeLoop (s.profileOf n) l
  consumeLoop n r (s.setFilter n f)

/-- F has become 1: a CONVERT decoder clears any call and enters FAULT (R67). -/
def enterFault (n : LineId) (s : State) : State :=
  if (s.line n).config.mode = .convert then clearCall n .fault s else s

/-- The exit test of a decoder in FAULT: F is 0 and S is OPEN (R68). -/
def exitFault (n : LineId) (s : State) : State :=
  if (s.line n).decoder = .fault ∧ (s.line n).filter.fault = false ∧ (s.line n).filter.loop = .opened then
    becomeIdle n (s.setDecoder n .idle)
  else s

/-- F has changed: the event is latched, and F becoming 1 reaches the decoder (R40, R41). -/
def faultChanged (n : LineId) (f : Bool) (s : State) : State :=
  if f then enterFault n (latch n .faultOn s) else latch n .faultOff s

/-- One G sample with its consequences, and the exit test of the arrival (R40, R41, R47 steps 4 and 5). -/
def faultSample (n : LineId) (g : Bool) (s : State) : State :=
  let (f, change) := (s.line n).filter.takeFault g
  let t := s.setFilter n f
  exitFault n (match change with
    | some v => faultChanged n v t
    | none => t)

/-- One sample arrival of a line: the L sample, then the G sample (R33, R41). -/
def arrival (n : LineId) (l g : Bool) (s : State) : State := faultSample n g (loopSample n l s)

end Sys2Proof.Machine
end

