-- ==== Sys2Proof/Machine/Operands.lean ====
section
/-! DEFINITION. Layouts of chapter 12: the slots of a frame, the parameters of requests, and the octets of results and messages. -/

namespace Sys2Proof.Machine

/-! ## Highway slots (12.1) -/

/-- A table of given length, value by value. -/
def vtab {α : Type} {size : Nat} (f : Fin size → α) : Vector α size := ⟨((List.finRange size).map f).toArray, by simp⟩

/-- A channel read from its slot: voice in bits 15–2, A in bit 1, B in bit 0. -/
def Channel.ofSlot (w : SlotWord) : Channel := ⟨w.extractLsb' 2 14, w.getLsbD 1, w.getLsbD 0⟩

/-- The slot of a channel. -/
def Channel.toSlot (c : Channel) : SlotWord := c.voice ++ BitVec.ofBool c.a ++ BitVec.ofBool c.b

/-- A frame read from its 50 slots: slot 0 the marker, slot 1 the management octets, line n in slot n + 2 (R1). -/
def Frame.ofSlots (w : Slots) : Frame where
  marker := w.get 0
  mgmtHigh := (w.get 1).extractLsb' 8 8
  mgmtLow := (w.get 1).extractLsb' 0 8
  channels := vtab fun n => Channel.ofSlot (w.get ⟨n.val + 2, by omega⟩)

/-- The 50 slots of a frame (R1). -/
def Frame.toSlots (f : Frame) : Slots :=
  vtab fun i =>
    if i.val = 0 then f.marker
    else if i.val = 1 then f.mgmtHigh ++ f.mgmtLow
    else Channel.toSlot (f.channels.get ⟨i.val - 2, by omega⟩)

/-- The bits of a slot in order of time: bit 15 first (12.1). -/
def slotBits (w : SlotWord) : List Bool := (List.range 16).map fun i => w.getLsbD (15 - i)

/-- The bits of a run of slots in order of time. -/
def slotsBits (ws : List SlotWord) : List Bool := ws.flatMap slotBits

/-! ## Octets -/

/-- A number of one octet. -/
def octet (v : Nat) : Byte := BitVec.ofNat 8 v

/-- A number of two octets, high octet first. -/
def octets2 (v : Nat) : List Byte := [octet (v / 256), octet v]

/-- The number that two octets carry, high octet first. -/
def number2 (hi lo : Byte) : Nat := hi.toNat * 256 + lo.toNat

/-- The octet at a position, as a number. -/
def numAt (bs : List Byte) (i : Nat) : Nat := (bs.getD i 0).toNat

/-- The two octets at a position, as a number. -/
def num2At (bs : List Byte) (i : Nat) : Nat := number2 (bs.getD i 0) (bs.getD (i + 1) 0)

/-- Bit 0 of a flag octet; its other bits are passed over (R174). -/
def flagAt (bs : List Byte) (i : Nat) : Bool := (bs.getD i 0).getLsbD 0

/-- A flag as an octet. -/
def flagOctet (b : Bool) : Byte := if b then 1 else 0

/-- The symbol in bits 7–4 of an octet. -/
def highSymbol (b : Byte) : Symbol := Fin.ofNat 16 (b.toNat / 16)

/-- The symbol in bits 3–0 of an octet. -/
def lowSymbol (b : Byte) : Symbol := Fin.ofNat 16 b.toNat

/-- The symbols of a run of octets, one per half-octet, first symbol in the high half (12.4). -/
def symbolsOf (bs : List Byte) : List Symbol := bs.flatMap fun b => [highSymbol b, lowSymbol b]

/-- The octet of two symbols. -/
def symbolPair (hi lo : Symbol) : Byte := octet (hi.val * 16 + lo.val)

/-- Symbols in half-octets, `size` octets, the half-octets beyond the list 0 (R175). -/
def symbolOctets (size : Nat) (xs : List Symbol) : List Byte :=
  (List.range size).map fun i => symbolPair (xs.getD (2 * i) 0) (xs.getD (2 * i + 1) 0)

/-! ## Small codes (12.3) -/

/-- A translation entry code: a symbol, or 0x10 IGNORE, 0x11 FLASH, 0x12 REJECT; anything above is no value (R174). -/
def transOfCode (b : Byte) : Option TransValue :=
  if b.toNat < 16 then some (.symbol (Fin.ofNat 16 b.toNat))
  else if b = 0x10 then some .ignore
  else if b = 0x11 then some .flash
  else if b = 0x12 then some .reject
  else none

/-- The code of a translation entry. -/
def TransValue.code : TransValue → Byte
  | .symbol s => octet s.val
  | .ignore => 0x10
  | .flash => 0x11
  | .reject => 0x12

/-- A page code. -/
def pageOfCode (b : Byte) : Option Page := if b = 0 then some .a else if b = 1 then some .b else none

/-- The code of a page. -/
def Page.code : Page → Byte
  | .a => 0
  | .b => 1

/-- A mode code. -/
def modeOfCode (b : Byte) : Option Mode :=
  if b = 0 then some .convert else if b = 1 then some .pass else if b = 2 then some .parked else none

/-- The code of a mode. -/
def Mode.code : Mode → Byte
  | .convert => 0
  | .pass => 1
  | .parked => 2

/-- The code of a pending mode, 0xFF when absent. -/
def pendingCode : Option Mode → Byte
  | none => 0xFF
  | some m => m.code

/-- A METER_MODE code. -/
def meterOfCode (b : Byte) : Option MeterMode := if b = 0 then some .resetOnRead else if b = 1 then some .hold else none

/-- The code of a METER_MODE. -/
def MeterMode.code : MeterMode → Byte
  | .resetOnRead => 0
  | .hold => 1

/-- A CODE_SET code: 0–3, or 0xFF for NONE; the outer absence is no code. -/
def codeSetOfCode (v : Nat) : Option (Option (Fin 4)) :=
  if v < 4 then some (some (Fin.ofNat 4 v)) else if v = 0xFF then some none else none

/-- The code of a CODE_SET. -/
def codeSetCode : Option (Fin 4) → Byte
  | none => 0xFF
  | some k => octet k.val

/-- The code of an alignment state. -/
def AlignState.code : AlignState → Byte
  | .hunt => 0
  | .confirm => 1
  | .locked => 2
  | .flywheel => 3

/-- The code of a decoder state. -/
def Decoder.code : Decoder → Nat
  | .idle => 0
  | .seizing => 1
  | .inCall (.closed .offhook) _ => 2
  | .inCall (.closed .indigit) _ => 3
  | .inCall (.closed .discard) _ => 4
  | .inCall (.opened _) _ => 5
  | .fault => 6

/-- The code of a mute state. -/
def MuteState.code : MuteState → Nat
  | .passing => 0
  | .pending _ => 1
  | .muted => 2

/-- The code of a reject reason, 0 when absent. -/
def reasonCode : Option RejectReason → Byte
  | none => 0
  | some .overlong => 1
  | some .malformed => 2
  | some .table => 3

/-- The code of a refusal (12.2). -/
def RefusalCode.code : RefusalCode → Byte
  | .format => 0x01
  | .unknown => 0x02
  | .range => 0x03
  | .value => 0x04
  | .order => 0x05
  | .active => 0x06
  | .bound => 0x07
  | .locked => 0x08
  | .busy => 0x09
  | .nocall => 0x0A

/-! ## Requests read (R174) -/

/-- The kinds of request (12.2). -/
inductive RequestKind
  | identify | partStatus | partConfig | lineStatus | lineConfig | lineReset | profileWrite | profileRead | cursorSet
  | tableWrite | tableRead | tableCompare | tableClear | tableClearcheck | setSwap | setLock | setErase | toneInsert
  | emitHold | emitResume | captureRead | qualityRead | softReset
  deriving DecidableEq, Repr

/-- The KIND code of a request (12.2). -/
def RequestKind.code : RequestKind → Byte
  | .identify => 0x01
  | .partStatus => 0x02
  | .partConfig => 0x03
  | .lineStatus => 0x04
  | .lineConfig => 0x05
  | .lineReset => 0x06
  | .profileWrite => 0x07
  | .profileRead => 0x08
  | .cursorSet => 0x09
  | .tableWrite => 0x0A
  | .tableRead => 0x0B
  | .tableCompare => 0x0C
  | .tableClear => 0x0D
  | .tableClearcheck => 0x0E
  | .setSwap => 0x0F
  | .setLock => 0x10
  | .setErase => 0x11
  | .toneInsert => 0x12
  | .emitHold => 0x13
  | .emitResume => 0x14
  | .captureRead => 0x15
  | .qualityRead => 0x16
  | .softReset => 0x17

/-- All 23 kinds, in the order of their codes. -/
def RequestKind.all : List RequestKind :=
  [.identify, .partStatus, .partConfig, .lineStatus, .lineConfig, .lineReset, .profileWrite, .profileRead, .cursorSet,
    .tableWrite, .tableRead, .tableCompare, .tableClear, .tableClearcheck, .setSwap, .setLock, .setErase, .toneInsert,
    .emitHold, .emitResume, .captureRead, .qualityRead, .softReset]

/-- The request that a KIND names, if it names one (R165 check 1). -/
def requestKindOf (b : Byte) : Option RequestKind := RequestKind.all.find? fun k => k.code = b

/-- A profile record as carried: every field a number (12.4). -/
structure ProfileWire where
  openProt : Nat
  closeProt : Nat
  seizeMin : Nat
  pulseMin : Nat
  pulseMax : Nat
  flashMin : Nat
  flashMax : Nat
  endFirst : Nat
  endMin : Nat
  endMax : Nat
  endMult : Nat
  endFixed : Nat
  ratioMin : Nat
  ratioMax : Nat
  speedMin : Nat
  speedMax : Nat
  dialIdle : Nat
  xlatSet : Nat
  codeSet : Nat
  toneOn : Nat
  toneGap : Nat
  flashOpen : Nat
  flashGuard : Nat
  firstDelay : Nat
  deriving DecidableEq, Repr

/-- Reads the 38 octets of a profile record, in the field order of R17 (12.4). -/
def ProfileWire.ofOctets (bs : List Byte) : ProfileWire where
  openProt := numAt bs 0
  closeProt := numAt bs 1
  seizeMin := num2At bs 2
  pulseMin := num2At bs 4
  pulseMax := num2At bs 6
  flashMin := num2At bs 8
  flashMax := num2At bs 10
  endFirst := num2At bs 12
  endMin := num2At bs 14
  endMax := num2At bs 16
  endMult := numAt bs 18
  endFixed := numAt bs 19
  ratioMin := numAt bs 20
  ratioMax := numAt bs 21
  speedMin := numAt bs 22
  speedMax := numAt bs 23
  dialIdle := num2At bs 24
  xlatSet := numAt bs 26
  codeSet := numAt bs 27
  toneOn := num2At bs 28
  toneGap := num2At bs 30
  flashOpen := num2At bs 32
  flashGuard := num2At bs 34
  firstDelay := num2At bs 36

/-- Every field but CODE_SET clamped into its range of R17 (R18). -/
def ProfileWire.clamped (w : ProfileWire) : ProfileWire where
  openProt := clamp 1 64 w.openProt
  closeProt := clamp 1 64 w.closeProt
  seizeMin := clamp 10 500 w.seizeMin
  pulseMin := clamp 10 100 w.pulseMin
  pulseMax := clamp 40 200 w.pulseMax
  flashMin := clamp 50 1000 w.flashMin
  flashMax := clamp 100 2000 w.flashMax
  endFirst := clamp 40 1000 w.endFirst
  endMin := clamp 30 500 w.endMin
  endMax := clamp 60 1000 w.endMax
  endMult := clamp 8 64 w.endMult
  endFixed := clamp 0 1 w.endFixed
  ratioMin := clamp 20 80 w.ratioMin
  ratioMax := clamp 30 90 w.ratioMax
  speedMin := clamp 40 200 w.speedMin
  speedMax := clamp 50 250 w.speedMax
  dialIdle := clamp 1000 30000 w.dialIdle
  xlatSet := clamp 0 7 w.xlatSet
  codeSet := w.codeSet
  toneOn := clamp 30 200 w.toneOn
  toneGap := clamp 30 200 w.toneGap
  flashOpen := clamp 50 1000 w.flashOpen
  flashGuard := clamp 50 2000 w.flashGuard
  firstDelay := clamp 0 3000 w.firstDelay

/-- The profile that clamped values and a CODE_SET make. -/
def ProfileWire.toProfile (w : ProfileWire) (codeSet : Option (Fin 4)) : Profile where
  openProt := w.openProt
  closeProt := w.closeProt
  seizeMin := w.seizeMin
  pulseMin := w.pulseMin
  pulseMax := w.pulseMax
  flashMin := w.flashMin
  flashMax := w.flashMax
  endFirst := w.endFirst
  endMin := w.endMin
  endMax := w.endMax
  endMult := w.endMult
  endFixed := w.endFixed = 1
  ratioMin := w.ratioMin
  ratioMax := w.ratioMax
  speedMin := w.speedMin
  speedMax := w.speedMax
  dialIdle := w.dialIdle
  xlatSet := Fin.ofNat 8 w.xlatSet
  codeSet := codeSet
  toneOn := w.toneOn
  toneGap := w.toneGap
  flashOpen := w.flashOpen
  flashGuard := w.flashGuard
  firstDelay := w.firstDelay

/-- The relations of R19. -/
def Profile.ordered (p : Profile) : Bool :=
  p.pulseMin < p.pulseMax && p.pulseMax < p.flashMin && p.flashMin < p.flashMax &&
  p.endMin ≤ p.endFirst && p.endFirst ≤ p.endMax && p.ratioMin < p.ratioMax && p.speedMin < p.speedMax

/-- The 38 octets of a profile record (12.4). -/
def Profile.octets (p : Profile) : List Byte :=
  [octet p.openProt, octet p.closeProt] ++ octets2 p.seizeMin ++ octets2 p.pulseMin ++ octets2 p.pulseMax ++
  octets2 p.flashMin ++ octets2 p.flashMax ++ octets2 p.endFirst ++ octets2 p.endMin ++ octets2 p.endMax ++
  [octet p.endMult, flagOctet p.endFixed, octet p.ratioMin, octet p.ratioMax, octet p.speedMin, octet p.speedMax] ++
  octets2 p.dialIdle ++ [octet p.xlatSet.val, codeSetCode p.codeSet] ++ octets2 p.toneOn ++ octets2 p.toneGap ++
  octets2 p.flashOpen ++ octets2 p.flashGuard ++ octets2 p.firstDelay

/-- A part record as carried (12.4). -/
def PartConfig.ofOctets (bs : List Byte) : PartConfig where
  fwdProt := numAt bs 0
  backProt := numAt bs 1
  lossHold := num2At bs 2
  qualWindow := num2At bs 4
  qualLimit := numAt bs 6
  rejLimit := numAt bs 7
  partMask := (bs.getD 8 0).extractLsb' 0 6

/-- Each numeric field but QUAL_WINDOW clamped into its range (R31). -/
def PartConfig.clamped (c : PartConfig) : PartConfig :=
  { c with
    fwdProt := clamp 1 15 c.fwdProt
    backProt := clamp 1 15 c.backProt
    lossHold := clamp 100 5000 c.lossHold
    qualLimit := clamp 1 100 c.qualLimit
    rejLimit := clamp 1 255 c.rejLimit }

/-- The 9 octets of a part record. -/
def PartConfig.octets (c : PartConfig) : List Byte :=
  [octet c.fwdProt, octet c.backProt] ++ octets2 c.lossHold ++ octets2 c.qualWindow ++
  [octet c.qualLimit, octet c.rejLimit, octet c.partMask.toNat]

/-- The 9 octets of a line record as a reply carries it, PENDING_MODE included (12.4). -/
def LineConfig.octets (c : LineConfig) : List Byte :=
  [c.mode.code, pendingCode c.pendingMode, octet c.profile.val] ++ octets2 c.eventMask.toNat ++ [flagOctet c.lineMute] ++
  octets2 (c.endOverride.getD 0) ++ [c.meterMode.code]

/-! ## Table entries (12.4) -/

/-- An action code of two bits. -/
def actionOfCode (v : Nat) : Option CodeAction :=
  if v = 1 then some .pass else if v = 2 then some .capture else if v = 3 then some .substitute else none

/-- The code of an action, 0 when absent. -/
def actionCode : Option CodeAction → Nat
  | none => 0
  | some .pass => 1
  | some .capture => 2
  | some .substitute => 3

/-- A code entry as R100 takes its nine octets: with END set the cleared value; with END clear the entry carried, if it is
valid; absent if it is invalid (R100, R174). -/
def codeEntryOf (bs : List Byte) : Option CodeEntry :=
  let head := bs.getD 0 0
  let codeLength := numAt bs 1 / 16
  let replacementLength := numAt bs 1 % 16
  if head.getLsbD 7 then some CodeEntry.cleared
  else if codeLength = 0 ∨ 6 < codeLength ∨ 8 < replacementLength then none
  else match actionOfCode (head.toNat % 4) with
    | none => none
    | some action =>
      some ⟨false, (symbolsOf ((bs.drop 2).take 3)).take codeLength, some action, head.getLsbD 6,
        (symbolsOf ((bs.drop 5).take 4)).take replacementLength⟩

/-- The nine octets of a code entry. -/
def CodeEntry.octets (e : CodeEntry) : List Byte :=
  [octet ((if e.isEnd then 128 else 0) + (if e.notify then 64 else 0) + actionCode e.action),
    octet (e.code.length * 16 + e.replacement.length)] ++ symbolOctets 3 e.code ++ symbolOctets 4 e.replacement

/-- A tone entry as carried. -/
def toneEntryOf (bs : List Byte) : ToneEntry := ⟨num2At bs 0, num2At bs 2, num2At bs 4, num2At bs 6⟩

/-- Each field of a tone entry clamped into its range (R132, R133). -/
def ToneEntry.clamped (t : ToneEntry) : ToneEntry :=
  ⟨clamp 200 3000 t.fLow, clamp 200 3000 t.fHigh, clamp 0 4095 t.aLow, clamp 0 4095 t.aHigh⟩

/-- The eight octets of a tone entry. -/
def ToneEntry.octets (t : ToneEntry) : List Byte := octets2 t.fLow ++ octets2 t.fHigh ++ octets2 t.aLow ++ octets2 t.aHigh

/-- The octets of an entry. -/
def Entry.octets : Entry → List Byte
  | .trans v => [v.code]
  | .code e => e.octets
  | .tone t => t.octets

/-- Cuts `count` pieces of `size` octets from a list. -/
def pieces (size : Nat) : Nat → List Byte → List (List Byte)
  | 0, _ => []
  | count + 1, bs => bs.take size :: pieces size count (bs.drop size)

/-- The entries of a request that carries a list: a whole number from 1 up to the most its kind allows, or nothing for a
length that does not fit (R165 check 2, R174). -/
def carriedEntries (size most : Nat) (bs : List Byte) : Option (List (List Byte)) :=
  let count := bs.length / size
  if bs.length % size = 0 ∧ 1 ≤ count ∧ count ≤ most then some (pieces size count bs) else none

/-! ## Results and messages (R161, R175) -/

/-- The second octet of the emitter report. -/
def EmitterReport.flags (r : EmitterReport) : Nat :=
  r.hold.toNat + 2 * r.firstWait.isSome.toNat + 4 * (match r.slot with
    | .empty => 0
    | .waiting => 1
    | .emitting => 2)

/-- The five octets of the emitter report (12.5). -/
def EmitterReport.octets (r : EmitterReport) : List Byte :=
  [octet r.state, octet r.flags] ++ octets2 (r.firstWait.getD 0) ++ [octet r.waiting]

/-- The sources as bits 0 to 4 (12.5). -/
def Sources.bits (x : Sources) : Nat := x.a.toNat + 2 * x.b.toNat + 4 * x.c.toNat + 8 * x.d.toNat + 16 * x.e.toNat

/-- The two octets of the voice report (12.5). -/
def VoiceReport.octets (r : VoiceReport) : List Byte :=
  [octet (r.hook.toNat + 2 * r.fault.toNat + 4 * r.mute.code), octet r.sources.bits]

/-- The octets of the line report (12.5). -/
def LineReport.octets (r : LineReport) : List Byte :=
  [octet r.line.val] ++ octets2 r.events.toNat ++
  [reasonCode r.rejectReason, r.mode.code, pendingCode r.pendingMode, octet r.decoder, octet r.pulses,
    octet ((if r.loop = .closed then 1 else 0) + 2 * r.fault.toNat)] ++ r.emitter.octets ++ r.voice.octets

/-- The eight counters, two octets each, in the order of R150. -/
def Counters.octets (c : Counters) : List Byte :=
  octets2 c.digitsEnded ++ octets2 c.pulses ++ octets2 c.distorted ++ octets2 c.glitches ++ octets2 c.abortedRuns ++
  octets2 c.rejected ++ octets2 c.speedOut ++ octets2 c.falseSeizures

/-- A capture record; an empty one has every field 0 (12.5, R175). -/
def captureOctets : Option CaptureRecord → List Byte
  | none => [0, 0, 0] ++ symbolOctets 3 [] ++ [0]
  | some r => [1, octet r.offset, octet r.code.length] ++ symbolOctets 3 r.code ++ [octet r.overwrites]

/-- The quality results; absent records are 0 in full width (12.5, R175). -/
def Quality.octets (q : Quality) : List Byte :=
  q.current.octets ++ [flagOctet q.last.isSome] ++ (q.last.getD Counters.zero).octets ++
  [flagOctet q.extremes.isSome] ++ octets2 (q.extremes.getD ⟨0, 0⟩).slowest ++ octets2 (q.extremes.getD ⟨0, 0⟩).fastest

/-- The five octets of the cursor (12.5). -/
def Cursor.octets (c : Cursor) : List Byte :=
  (match c.table with
    | .trans k => [0, octet k.val]
    | .code k => [1, octet k.val]
    | .tone => [2, 0]) ++ [c.page.code, octet c.offset, flagOctet c.autoIncrement]

/-- The octets of a result (12.5). -/
def Result.octets : Result → List Byte
  | .nothing => []
  | .identity => octets2 0x0B7A ++ octets2 4860 ++ [1, 48, 8, 8, 20, 4, 16, 16, 16, 4]
  | .part flags checkFailures discarded lu sd =>
    [octet flags.toNat] ++ octets2 checkFailures ++ octets2 discarded ++ [lu.code, sd.code]
  | .partConfig c => c.octets
  | .lineReport r => r.octets
  | .lineConfig n c => octet n.val :: c.octets
  | .profile k p => octet k.val :: p.octets
  | .cursor c => c.octets
  | .cursorOffset o => [octet o]
  | .entries es page o =>
    es.flatMap Entry.octets ++ (match page with
      | none => []
      | some (active, bound) => [flagOctet active, octet bound]) ++ [octet o]
  | .compared none o => [0, octet o]
  | .compared (some (at_, stored, supplied)) o => [1, octet o, octet at_] ++ stored.octets ++ supplied.octets
  | .clearCheck none => [0]
  | .clearCheck (some (at_, e)) => [1, octet at_] ++ e.octets
  | .setState active locked a b => [active.code, flagOctet locked, octet a, octet b]
  | .emitter r => r.octets
  | .capture c => captureOctets c
  | .quality q => q.octets

/-- The sum modulo 256 of LEN and every body octet (R161). -/
def checkSum (covered : List Byte) : Byte := covered.foldl (· + ·) 0

/-- The exclusive-or of LEN and every body octet (R161). -/
def checkXor (covered : List Byte) : Byte := covered.foldl (· ^^^ ·) 0

/-- A message: SYNC, LEN, the body and the check pair (R161). -/
def messageOctets (body : List Byte) : List Byte :=
  let covered := octet body.length :: body
  syncOctet :: covered ++ [checkSum covered, checkXor covered]

/-- The body of a reply (12.2). -/
def Reply.body (r : Reply) : List Byte :=
  match r.answer with
  | .ack clamped deferred result =>
    [0xA0, r.tag, r.kind, octet (clamped.toNat + 2 * deferred.toNat)] ++ result.octets
  | .refuse code => [0xA1, r.tag, r.kind, code.code]

/-- One octet of line bits: bit j stands for line 8 × i + j (12.2). -/
def lineBitsOctet (members : List LineId) (i : Nat) : Byte :=
  octet (((List.range 8).map fun j => if members.any (fun n => n.val = 8 * i + j) then 2 ^ j else 0).sum)

/-- The body of an ATTENTION notice: TAG 0x00, six octets of line bits, the part bit (R169, 12.2). -/
def noticeBody (members : List LineId) (part : Bool) : List Byte :=
  [0xA2, 0x00] ++ (List.range 6).map (lineBitsOctet members) ++ [flagOctet part]

end Sys2Proof.Machine
end

