-- ==== Sys2Proof/Machine/Emitter.lean ====
section
/-! DEFINITION. The Tone Emitter: tone synthesis, bursts, flashes and their timing in output frames (chapter 8). -/

namespace Sys2Proof.Machine

/-! ## Tone synthesis (R135, R136) -/

/-- The unit of the fixed-point sine, 2^64. -/
def sineUnit : Nat := 18446744073709551616

/-- 2π in units of 2^−64, rounded down. -/
def twoPi : Nat := 115904311329233965478

/-- The sine of 2π × r / 65536 in units of 2^−64, for r up to 16384: the Taylor polynomial of degree 27 in Horner's form
(log entry 12). -/
def sineFixed (r : Nat) : Nat :=
  let x := r * twoPi / 65536
  let x2 := x * x / sineUnit
  let series := [27, 25, 23, 21, 19, 17, 15, 13, 11, 9, 7, 5, 3].foldl
    (fun t k => sineUnit - x2 * t / sineUnit / ((k - 1) * k)) sineUnit
  x * series / sineUnit

/-- 8191 times the sine of a phase in the first quarter wave, rounded to the nearest integer (R136 step 1). -/
def quarterSine (r : Nat) : Nat := (2 * 8191 * sineFixed r + sineUnit) / (2 * sineUnit)

/-- s(φ) = 8191 × sin(2π × φ / 65536), rounded to the nearest integer, halves away from zero (R136 step 1). -/
def sine (phase : Nat) : Int :=
  let r := phase % 16384
  match phase / 16384 % 4 with
  | 0 => quarterSine r
  | 1 => quarterSine (16384 - r)
  | 2 => -(quarterSine r : Int)
  | _ => -(quarterSine (16384 - r) : Int)

/-- The phase increment of a frequency: floor((F × 65536 + 4000) / 8000) (R135). -/
def phaseIncrement (f : Nat) : Nat := (f * 65536 + 4000) / 8000

/-- The phase of sample k (R135). -/
def phaseAt (k inc : Nat) : Nat := k * inc % 65536

/-- A value saturated into −8191..+8191 (R136 step 3). -/
def saturateSample (v : Int) : Int := if v < -8191 then -8191 else if 8191 < v then 8191 else v

/-- The mix of two components, truncated toward zero and saturated (R136 steps 2 and 3). -/
def mixTones (ampLow ampHigh : Nat) (sLow sHigh : Int) : Int :=
  saturateSample ((ampLow * sLow + ampHigh * sHigh).tdiv 4096)

/-- The tone sample of the present output frame of a burst (R136). -/
def Burst.toneSample (b : Burst) : Int :=
  mixTones b.ampLow b.ampHigh (sine (phaseAt b.sample b.incLow)) (sine (phaseAt b.sample b.incHigh))

/-! ## Taking an item (R124) -/

/-- The burst of a symbol, at its sample 0, from the tone table and the profile as they stand (R124, R125, R135). -/
def State.burstOf (s : State) (n : LineId) (sym : Symbol) : Burst :=
  let e := s.tones.get sym
  let p := s.profileOf n
  ⟨sym, phaseIncrement e.fLow, phaseIncrement e.fHigh, e.aLow, e.aHigh, 0, p.toneOn * 8 - 1, p.toneGap * 8⟩

/-- The insert slot holds a WAITING record. -/
def Emission.slotWaiting (e : Emission) : Bool := e.slot.any fun r => r.condition = .waiting

/-- The emitter can take an item in this output frame (R124). -/
def Emission.canTake (e : Emission) : Bool :=
  e.state = .quiet && e.firstWait.isNone && !e.hold && (e.slotWaiting || !e.queue.isEmpty)

/-- Changes a line's emission. -/
def State.modEmission (s : State) (n : LineId) (f : Emission → Emission) : State :=
  s.modLine n fun l => { l with emission := f l.emission }

/-- Takes the head of the queue, if there is one (R124). -/
def takeFromQueue (n : LineId) (s : State) : State :=
  match (s.line n).emission.queue with
  | [] => s
  | .digit sym :: rest => s.modEmission n fun e => { e with queue := rest, state := .tone (s.burstOf n sym) }
  | .flash :: rest =>
    let p := s.profileOf n
    s.modEmission n fun e => { e with queue := rest, state := .flashOut (p.flashOpen * 8 - 1) (p.flashGuard * 8) }

/-- Takes the next item: a WAITING slot first, which moves to EMITTING, otherwise the head of the queue (R124). -/
def takeItem (n : LineId) (s : State) : State :=
  match (s.line n).emission.slot with
  | some ⟨sym, notify, .waiting⟩ =>
    s.modEmission n fun e => { e with slot := some ⟨sym, notify, .emitting⟩, state := .tone (s.burstOf n sym) }
  | _ => takeFromQueue n s

/-- Takes an item where the emitter is free to (R124). -/
def takeIfFree (n : LineId) (s : State) : State := if (s.line n).emission.canTake then takeItem n s else s

/-! ## The ends of the states (R125, R126) -/

/-- Sets the emitter state. -/
def State.setEmitter (s : State) (n : LineId) (e : EmitterState) : State := s.modEmission n fun x => { x with state := e }

/-- The last burst sample has been carried: GAP, of which this is the first output frame (R125). -/
def endBurst (n : LineId) (b : Burst) (s : State) : State := s.setEmitter n (.gap (b.gapLength - 1))

/-- The gap is over: QUIET; an EMITTING slot empties, and INSERT-DONE is latched if its notify flag was set (R122, R125). -/
def endGap (n : LineId) (s : State) : State :=
  let t := s.setEmitter n .quiet
  match (s.line n).emission.slot with
  | some ⟨_, notify, .emitting⟩ =>
    let u := t.modEmission n fun e => { e with slot := none }
    if notify then latch n .insertDone u else u
  | _ => t

/-- The opening is over: GUARD, of which this is the first output frame (R126). -/
def endFlash (n : LineId) (guardLength : Nat) (s : State) : State := s.setEmitter n (.guard (guardLength - 1))

/-- The guard is over: QUIET (R126). -/
def endGuard (n : LineId) (s : State) : State := s.setEmitter n .quiet

/-- The emitter's output frame: the state goes on or ends, and a QUIET emitter may take an item (R123 to R126). -/
def emitterFrame (n : LineId) (s : State) : State :=
  match (s.line n).emission.state with
  | .quiet => takeIfFree n s
  | .tone b =>
    if b.remaining = 0 then endBurst n b s
    else s.setEmitter n (.tone { b with sample := b.sample + 1, remaining := b.remaining - 1 })
  | .gap r => if r = 0 then takeIfFree n (endGap n s) else s.setEmitter n (.gap (r - 1))
  | .flashOut r g => if r = 0 then endFlash n g s else s.setEmitter n (.flashOut (r - 1) g)
  | .guard r => if r = 0 then takeIfFree n (endGuard n s) else s.setEmitter n (.guard (r - 1))

/-! ## FIRST_WAIT (R128) -/

/-- One output frame less of FIRST_WAIT, which clears when the count reaches 0 (R128). -/
def lessFirstWait : Option Nat → Option Nat
  | none => none
  | some c => if c ≤ 1 then none else some (c - 1)

/-- FIRST_WAIT counts one output frame (R128). -/
def countFirstWait (n : LineId) (s : State) : State :=
  s.modEmission n fun e => { e with firstWait := lessFirstWait e.firstWait }

/-! ## The end of a gap and a clear in one output frame (R122) -/

/-- The gap of an inserted symbol with notify set ends in the output frame that now starts. -/
def Emission.insertDue (e : Emission) : Bool :=
  e.state = .gap 0 && e.slot.any fun r => r.condition = .emitting && r.notify

/-- A line whose inserted symbol's gap was to end in this output frame (`before` is the state at its start) and whose call was
cleared in it: the return to QUIET was taken first, and INSERT-DONE latched, exactly when the free value says so (R122,
log entry 8). -/
def settleRace (before : State) (n : LineId) (s : State) : State :=
  if (before.line n).emission.insertDue && (before.callOf n).isSome && (s.callOf n).isNone then
    let t := { s with raceCount := s.raceCount + 1 }
    if Config.gapEndBeforeClear s.raceCount then latch n .insertDone t else t
  else s

/-! ## The emitter report (R137) -/

/-- The code of an emitter state (chapter 12.3). -/
def EmitterState.code : EmitterState → Nat
  | .quiet => 0
  | .tone _ => 1
  | .gap _ => 2
  | .flashOut _ _ => 3
  | .guard _ => 4

/-- The emitter report of a line (R137). -/
def Emission.report (e : Emission) : EmitterReport where
  state := e.state.code
  hold := e.hold
  firstWait := e.firstWait
  slot := match e.slot with
    | none => .empty
    | some r => match r.condition with
      | .waiting => .waiting
      | .emitting => .emitting
  waiting := e.queue.length

end Sys2Proof.Machine
end

