-- ==== Sys2Proof/Machine/VoiceSelector.lean ====
section
/-! DEFINITION. The Voice Selector (chapter 9). -/

namespace Sys2Proof.Machine

/-- Mute source a: SEIZING, OPEN, INDIGIT or DISCARD (R140). -/
def Decoder.dialling : Decoder → Bool
  | .seizing => true
  | .inCall (.opened _) _ => true
  | .inCall (.closed .indigit) _ => true
  | .inCall (.closed .discard) _ => true
  | .inCall (.closed .offhook) _ => false
  | .idle => false
  | .fault => false

/-- Mute source b: the emitter is not in QUIET, or an item waits, or the slot is occupied (R140). -/
def Emission.busy (e : Emission) : Bool := e.state ≠ .quiet || !e.queue.isEmpty || e.slot.isSome

/-- The mute sources present on a line (R140). -/
def State.sourcesOf (s : State) (n : LineId) : Sources :=
  let l := s.line n
  let convert : Bool := l.config.mode = .convert
  { a := convert && l.decoder.dialling
    b := convert && l.emission.busy
    c := l.config.lineMute
    d := match l.config.mode with
      | .convert => l.decoder = .fault
      | .pass => l.filter.fault
      | .parked => true
    e := !s.lu.up }

/-- An immediate source, d or e, is present (R140). -/
def Sources.immediate (x : Sources) : Bool := x.d || x.e

/-- A zero-cross source, a, b or c, is present (R140). -/
def Sources.zeroCross (x : Sources) : Bool := x.a || x.b || x.c

/-- A sample of magnitude 64 or less (R141). -/
def nearZero (v : Sample) : Bool := v.toInt.natAbs ≤ 64

/-- The mute state of the next output frame (R141). -/
def MuteState.forward (m : MuteState) (x : Sources) (v : Sample) : MuteState :=
  if x.immediate then .muted
  else if x.zeroCross then
    match m with
    | .passing => if nearZero v then .muted else .pending 0
    | .pending w => if nearZero v || 8 ≤ w + 1 then .muted else .pending (w + 1)
    | .muted => .muted
  else .passing

/-- The hook bit of a line (R144, R145, R146). -/
def Line.hook (l : Line) : Bool :=
  match l.config.mode with
  | .convert => l.decoder.call.isSome && (match l.emission.state with
    | .flashOut _ _ => false
    | _ => true)
  | .pass => !l.filter.fault && l.filter.loop = .closed
  | .parked => false

/-- The fault mark of a line: F in every mode (R147). -/
def Line.faultMark (l : Line) : Bool := l.filter.fault

/-- The Voice Selector takes its state forward once in the output frame and keeps what the frame shows (R139, R141, R149). -/
def voiceFrame (n : LineId) (s : State) : State :=
  let x := s.sourcesOf n
  s.modLine n fun l =>
    { l with voice := ⟨l.voice.mute.forward x (s.lastVoice.get n), l.hook, l.faultMark, x⟩ }

/-- The SU voice sample of a line (R139). -/
def State.suSample (s : State) (n : LineId) : Sample :=
  match (s.line n).emission.state with
  | .tone b => BitVec.ofInt 14 b.toneSample
  | _ => match (s.line n).voice.mute with
    | .muted => 0
    | _ => s.lastVoice.get n

/-- The SU channel of a line, after its Voice Selector has been taken forward (R2, R139). -/
def State.suChannel (s : State) (n : LineId) : Channel :=
  ⟨s.suSample n, (s.line n).voice.shownHook, (s.line n).voice.shownFault⟩

/-- The voice report (R149). -/
def Voice.report (v : Voice) : VoiceReport := ⟨v.shownHook, v.shownFault, v.mute, v.shownSources⟩

end Sys2Proof.Machine
end

