-- ==== Sys2Proof/Machine/Requests.lean ====
section
/-! DEFINITION. The effect of each request at its execution (chapters 2, 6 to 11), on its parameter octets. -/

namespace Sys2Proof.Machine

/-- What executing a request brings: its effects, its answer, and whether the answer acknowledges a SOFT-RESET (R165, R172). -/
structure Executed where
  state : State
  answer : Answer
  softReset : Bool

/-- An acknowledgement with no flag set. -/
def ackWith (s : State) (r : Result) : Executed := ⟨s, .ack false false r, false⟩

/-- An acknowledgement that may carry CLAMPED (R166). -/
def ackClamped (s : State) (clamped : Bool) (r : Result) : Executed := ⟨s, .ack clamped false r, false⟩

/-- A refusal: nothing is changed (R165, R166). -/
def refuseWith (s : State) (c : RefusalCode) : Executed := ⟨s, .refuse c, false⟩

/-- The line that an octet names, if it names one of the 48. -/
def lineOf (b : Byte) : Option LineId := if h : b.toNat < 48 then some ⟨b.toNat, h⟩ else none

/-- A request that carries one line: FORMAT for another length, RANGE for a line outside 0–47. -/
def withLine (params : List Byte) (s : State) (f : LineId → Executed) : Executed :=
  match params with
  | [b] => match lineOf b with
    | some n => f n
    | none => refuseWith s .range
  | _ => refuseWith s .format

/-- A request that carries nothing: FORMAT for any parameter. -/
def withNothing (params : List Byte) (s : State) (e : Executed) : Executed :=
  if params = [] then e else refuseWith s .format

/-! ## Part and line requests -/

/-- IDENTIFY (R171). -/
def reqIdentify (params : List Byte) (s : State) : Executed := withNothing params s (ackWith s .identity)

/-- PART-STATUS (R159): the report, then every flag and both counters cleared. -/
def reqPartStatus (params : List Byte) (s : State) : Executed :=
  withNothing params s
    (ackWith { s with partEvents := 0, checkFailures := 0, discardedRequests := 0 }
      (.part s.partEvents s.checkFailures s.discardedRequests s.lu.state s.sd.state))

/-- PART-CONFIG (R31, R32): a read with no record; a write of nine octets, refused VALUE for a QUAL_WINDOW other than 100 or
1000, clamped otherwise. -/
def reqPartConfig (params : List Byte) (s : State) : Executed :=
  if params = [] then ackWith s (.partConfig s.part)
  else if params.length = 9 then
    let carried := PartConfig.ofOctets params
    if carried.qualWindow ≠ 100 ∧ carried.qualWindow ≠ 1000 then refuseWith s .value
    else
      ackClamped (s.setPartFlags s.partEvents carried.clamped) (carried.clamped ≠ carried) (.partConfig carried.clamped)
  else refuseWith s .format

/-- The pulse count of the digit in progress, 0 outside INDIGIT, DISCARD and OPEN entered from either (R45). -/
def Decoder.reportedPulses : Decoder → Nat
  | .inCall (.closed .indigit) c | .inCall (.closed .discard) c | .inCall (.opened .indigit) c
  | .inCall (.opened .discard) c => c.pulses
  | .inCall (.closed .offhook) _ | .inCall (.opened .offhook) _ | .idle | .seizing | .fault => 0

/-- The line report of LINE-STATUS (R158). -/
def State.lineReport (s : State) (n : LineId) : LineReport :=
  let l := s.line n
  { line := n
    events := l.events
    rejectReason := l.rejectReason
    mode := l.config.mode
    pendingMode := l.config.pendingMode
    decoder := l.decoder.code
    pulses := l.decoder.reportedPulses
    loop := l.filter.loop
    fault := l.filter.fault
    emitter := l.emission.report
    voice := l.voice.report }

/-- LINE-STATUS (R158): the report, then the reported flags and the last reject reason cleared. -/
def reqLineStatus (params : List Byte) (s : State) : Executed :=
  withLine params s fun n =>
    ackWith (s.modLine n fun l => { l with events := 0, rejectReason := none }) (.lineReport (s.lineReport n))

/-- A line of the mode that the request finds is idle (R27). -/
def Line.isIdle (l : Line) : Bool :=
  match l.config.mode with
  | .convert => l.decoder = .idle
  | .pass => l.filter.loop = .opened
  | .parked => true

/-- The fields of LINE-CONFIG other than MODE, after its checks (R24). -/
structure LineSettings where
  profile : Fin 8
  eventMask : LineEventSet
  lineMute : Bool
  endOverride : Option Nat
  meterMode : MeterMode

/-- PROFILE, EVENT_MASK, LINE_MUTE, END_OVERRIDE and METER_MODE are written; a different METER_MODE clears the speed
extremes, and a mask that finds a latched event lets the line enter the pending map (R24, R29). -/
def writeSettings (n : LineId) (x : LineSettings) (s : State) : State :=
  s.modLineMapped n fun l =>
    { l with
      config := { l.config with
        profile := x.profile
        eventMask := x.eventMask
        lineMute := x.lineMute
        endOverride := x.endOverride
        meterMode := x.meterMode }
      quality := if l.config.meterMode = x.meterMode then l.quality else { l.quality with extremes := none } }

/-- A change to PARKED, at once: an open call is cleared without any event, the decoder is held in IDLE, PENDING_MODE is
removed (R25). -/
def park (n : LineId) (s : State) : State :=
  (clearCall n .idle s).modLine n fun l => { l with config := { l.config with mode := .parked, pendingMode := none } }

/-- The requested MODE (R25 to R27): the state, and whether the change is deferred. -/
def requestMode (n : LineId) (m : Mode) (s : State) : State × Bool :=
  let l := s.line n
  if m = .parked then (if l.config.mode = .parked then s else park n s, false)
  else if l.config.mode = m then
    (s.modLine n fun l => { l with config := { l.config with pendingMode := none } }, false)
  else if l.isIdle then (enterMode n m s, false)
  else (s.modLine n fun l => { l with config := { l.config with pendingMode := some m } }, true)

/-- An END_OVERRIDE as carried: 0 means absent, any other is clamped into 30–1000 (R24, R174). -/
def overrideOf (v : Nat) : Option Nat := if v = 0 then none else some (clamp 30 1000 v)

/-- LINE-CONFIG (R24 to R29). -/
def reqLineConfig (params : List Byte) (s : State) : Executed :=
  if params.length ≠ 9 then refuseWith s .format
  else match lineOf (params.getD 0 0) with
    | none => refuseWith s .range
    | some n =>
      if h : numAt params 2 < 8 then
        match modeOfCode (params.getD 1 0), meterOfCode (params.getD 8 0) with
        | some m, some meter =>
          let v := num2At params 6
          let x : LineSettings :=
            { profile := ⟨numAt params 2, h⟩
              eventMask := (params.getD 3 0 ++ params.getD 4 0).extractLsb' 0 9
              lineMute := flagAt params 5
              endOverride := overrideOf v
              meterMode := meter }
          let (t, deferred) := requestMode n m (writeSettings n x s)
          ⟨t, .ack (x.endOverride.getD 0 ≠ v) deferred (.lineConfig n (t.line n).config), false⟩
        | _, _ => refuseWith s .value
      else refuseWith s .range

/-- The reset of one line (R30): call cleared without any event, decoder IDLE, filter, emission, capture, events and quality
at their starting values, and then any PENDING_MODE. -/
def lineReset (n : LineId) (s : State) : State :=
  becomeIdle n ((clearCall n .idle s).modLine n fun l =>
    { l with
      filter := Filter.reset
      emission := Emission.idle
      capture := none
      events := 0
      rejectReason := none
      quality := Quality.reset })

/-- LINE-RESET (R30). -/
def reqLineReset (params : List Byte) (s : State) : Executed :=
  withLine params s fun n => ackWith (lineReset n s) .nothing

/-! ## Profiles -/

/-- PROFILE-WRITE (R18, R19). -/
def reqProfileWrite (params : List Byte) (s : State) : Executed :=
  match params with
  | [] => refuseWith s .format
  | b :: record =>
    if record.length ≠ 38 then refuseWith s .format
    else if h : b.toNat < 8 then
      let wire := ProfileWire.ofOctets record
      match codeSetOfCode wire.codeSet with
      | none => refuseWith s .value
      | some k =>
        let p := wire.clamped.toProfile k
        if p.ordered then
          ackClamped { s with profiles := s.profiles.set b.toNat p h } (wire.clamped ≠ wire) (.profile ⟨b.toNat, h⟩ p)
        else refuseWith s .order
    else refuseWith s .range

/-- PROFILE-READ (R20). -/
def reqProfileRead (params : List Byte) (s : State) : Executed :=
  match params with
  | [b] =>
    if h : b.toNat < 8 then ackWith s (.profile ⟨b.toNat, h⟩ (s.profiles.get ⟨b.toNat, h⟩))
    else refuseWith s .range
  | _ => refuseWith s .format

/-! ## The table cursor and the tables -/

/-- The table that a kind code and a set octet name, or the refusal: VALUE for no kind, RANGE for a set outside the kind's
range (R170). -/
def tableOf (kind set : Byte) : Except RefusalCode TableRef :=
  if kind = 0 then
    if h : set.toNat < 8 then .ok (.trans ⟨set.toNat, h⟩) else .error .range
  else if kind = 1 then
    if h : set.toNat < 4 then .ok (.code ⟨set.toNat, h⟩) else .error .range
  else if kind = 2 then
    if set = 0 then .ok .tone else .error .range
  else .error .value

/-- The table size of a kind: one past the last offset (R170). -/
def TableRef.size : TableRef → Nat
  | .trans _ => 20
  | .code _ => 16
  | .tone => 16

/-- CURSOR-SET (R170): VALUE for the kind or the page first, then RANGE for the set or the offset. -/
def reqCursorSet (params : List Byte) (s : State) : Executed :=
  match params with
  | [kind, set, page, offset, auto] =>
    match tableOf kind set, pageOfCode page with
    | .error .value, _ => refuseWith s .value
    | _, none => refuseWith s .value
    | .error c, some _ => refuseWith s c
    | .ok table, some p =>
      if table.size < offset.toNat then refuseWith s .range
      else
        let c : Cursor := ⟨table, p, offset.toNat, auto.getLsbD 0⟩
        ackWith { s with cursor := c } (.cursor c)
  | _ => refuseWith s .format

/-- The cursor after a table request that would move it to an offset (R90 to R92). -/
def Cursor.moved (c : Cursor) (offset : Nat) : Cursor := if c.autoIncrement then { c with offset := offset } else c

/-- Checks 1 to 3 of R89 for TABLE-WRITE and TABLE-CLEAR. -/
def PagedSet.writeRefusal {α : Type} {size : Nat} (p : PagedSet α size) (page : Page) : Option RefusalCode :=
  if p.locked then some .locked
  else if p.active = page then some .active
  else if 0 < p.bound page then some .bound
  else none

/-- Check 1 of R89 for the requests that only read. -/
def PagedSet.readRefusal {α : Type} {size : Nat} (p : PagedSet α size) : Option RefusalCode :=
  if p.locked then some .locked else none

/-- All the values of a list, if each is one (R90: all of them together or none). -/
def allSome {α : Type} : List (Option α) → Option (List α)
  | [] => some []
  | none :: _ => none
  | some x :: rest => (allSome rest).map (x :: ·)

/-- The translation entries a request carries, if each is one of the 19 values. -/
def transEntries (raw : List (List Byte)) : Option (List TransValue) := allSome (raw.map fun bs => transOfCode (bs.getD 0 0))

/-- The code entries a request carries, as R100 takes them, if each is valid. -/
def codeEntries (raw : List (List Byte)) : Option (List CodeEntry) := allSome (raw.map codeEntryOf)

/-- The tone entries a request carries. -/
def toneEntries (raw : List (List Byte)) : List ToneEntry := raw.map toneEntryOf

/-- TABLE-WRITE on a translation page (R89, R90). -/
def writeTrans (k : Fin 8) (params : List Byte) (s : State) : Executed :=
  match carriedEntries 1 20 params with
  | none => refuseWith s .format
  | some raw => match (s.xlat.get k).writeRefusal s.cursor.page with
    | some c => refuseWith s c
    | none => match transEntries raw with
      | none => refuseWith s .value
      | some es =>
        if 20 < s.cursor.offset + es.length then refuseWith s .range
        else
          let cursor := s.cursor.moved (s.cursor.offset + es.length)
          let put (p : TransSet) : TransSet :=
            p.setEntries s.cursor.page (vwrite (p.entries s.cursor.page) s.cursor.offset es)
          ackWith { s with xlat := vmod s.xlat k put, cursor := cursor } (.cursorOffset cursor.offset)

/-- TABLE-WRITE on a code page (R90, R103). -/
def writeCode (k : Fin 4) (params : List Byte) (s : State) : Executed :=
  match carriedEntries 9 6 params with
  | none => refuseWith s .format
  | some raw => match (s.code.get k).writeRefusal s.cursor.page with
    | some c => refuseWith s c
    | none => match codeEntries raw with
      | none => refuseWith s .value
      | some es =>
        if 16 < s.cursor.offset + es.length then refuseWith s .range
        else
          let cursor := s.cursor.moved (s.cursor.offset + es.length)
          let put (p : CodeSet) : CodeSet :=
            p.setEntries s.cursor.page (vwrite (p.entries s.cursor.page) s.cursor.offset es)
          ackWith { s with code := vmod s.code k put, cursor := cursor } (.cursorOffset cursor.offset)

/-- TABLE-WRITE on the tone table (R133). -/
def writeTones (params : List Byte) (s : State) : Executed :=
  match carriedEntries 8 7 params with
  | none => refuseWith s .format
  | some raw =>
    let es := toneEntries raw
    let clamped := es.map ToneEntry.clamped
    if 16 < s.cursor.offset + es.length then refuseWith s .range
    else
      let cursor := s.cursor.moved (s.cursor.offset + es.length)
      ackClamped { s with tones := vwrite s.tones s.cursor.offset clamped, cursor := cursor } (clamped ≠ es)
        (.cursorOffset cursor.offset)

/-- TABLE-WRITE (R90, R103, R133). -/
def reqTableWrite (params : List Byte) (s : State) : Executed :=
  match s.cursor.table with
  | .trans k => writeTrans k params s
  | .code k => writeCode k params s
  | .tone => writeTones params s

/-- The entries that the cursor's table or page holds. -/
def State.cursorEntries (s : State) : List Entry :=
  match s.cursor.table with
  | .trans k => ((s.xlat.get k).entries s.cursor.page).toList.map .trans
  | .code k => ((s.code.get k).entries s.cursor.page).toList.map .code
  | .tone => s.tones.toList.map .tone

/-- The cleared values of the cursor's table or page (R83, R100, R134). -/
def State.cursorCleared (s : State) : List Entry :=
  match s.cursor.table with
  | .trans _ => List.replicate 20 (.trans .reject)
  | .code _ => List.replicate 16 (.code CodeEntry.cleared)
  | .tone => ToneEntry.resetAll.toList.map .tone

/-- Check 1 of R89 on the cursor's table; the tone table has no lock (R133). -/
def State.cursorReadRefusal (s : State) : Option RefusalCode :=
  match s.cursor.table with
  | .trans k => (s.xlat.get k).readRefusal
  | .code k => (s.code.get k).readRefusal
  | .tone => none

/-- The role (true for ACTIVE) and the bound count of the cursor's page; none for the tone table (R91, R133). -/
def State.cursorPageState (s : State) : Option (Bool × Nat) :=
  match s.cursor.table with
  | .trans k => some ((s.xlat.get k).active = s.cursor.page, (s.xlat.get k).bound s.cursor.page)
  | .code k => some ((s.code.get k).active = s.cursor.page, (s.code.get k).bound s.cursor.page)
  | .tone => none

/-- The most entries that one TABLE-READ reply holds (R165 check 4, 12.4). -/
def TableRef.mostRead : TableRef → Nat
  | .trans _ => 20
  | .code _ => 6
  | .tone => 7

/-- TABLE-READ (R91, R103, R133, R165 check 4). -/
def reqTableRead (params : List Byte) (s : State) : Executed :=
  match params with
  | [b] =>
    let k := b.toNat
    match s.cursorReadRefusal with
    | some c => refuseWith s c
    | none =>
      if k = 0 ∨ s.cursor.table.size < s.cursor.offset + k then refuseWith s .range
      else if s.cursor.table.mostRead < k then refuseWith s .format
      else
        let cursor := s.cursor.moved (s.cursor.offset + k)
        ackWith { s with cursor := cursor }
          (.entries ((s.cursorEntries.drop s.cursor.offset).take k) s.cursorPageState cursor.offset)
  | _ => refuseWith s .format

/-- The first place where stored and supplied entries differ, from an offset onward (R92). -/
def firstMismatch : Nat → List Entry → List Entry → Option (Nat × Entry × Entry)
  | offset, stored :: ss, supplied :: us =>
    if stored = supplied then firstMismatch (offset + 1) ss us else some (offset, stored, supplied)
  | _, _, _ => none

/-- What TABLE-COMPARE supplies: its entries as the cursor's kind takes them and whether any was clamped, or the refusal of
checks 2 and 4 (R104, R133, R165). -/
def State.supplied (s : State) (params : List Byte) : Except RefusalCode (List Entry × Bool) :=
  match s.cursor.table with
  | .trans _ => match carriedEntries 1 20 params with
    | none => .error .format
    | some raw => match transEntries raw with
      | none => .error .value
      | some es => .ok (es.map .trans, false)
  | .code _ => match carriedEntries 9 6 params with
    | none => .error .format
    | some raw => match codeEntries raw with
      | none => .error .value
      | some es => .ok (es.map .code, false)
  | .tone => match carriedEntries 8 7 params with
    | none => .error .format
    | some raw =>
      let es := toneEntries raw
      .ok (es.map fun t => .tone t.clamped, es.map ToneEntry.clamped ≠ es)

/-- The comparison itself, once its checks are passed (R92). -/
def compareEntries (es : List Entry) (clamped : Bool) (s : State) : Executed :=
  match firstMismatch s.cursor.offset (s.cursorEntries.drop s.cursor.offset) es with
  | none =>
    let cursor := s.cursor.moved (s.cursor.offset + es.length)
    ackClamped { s with cursor := cursor } clamped (.compared none cursor.offset)
  | some (o, stored, supplied) =>
    let cursor := s.cursor.moved (o + 1)
    ackClamped { s with cursor := cursor } clamped (.compared (some (o, stored, supplied)) cursor.offset)

/-- TABLE-COMPARE (R92, R104, R133): FORMAT before LOCKED, LOCKED before VALUE, VALUE before RANGE (R89, R165). -/
def reqTableCompare (params : List Byte) (s : State) : Executed :=
  match s.supplied params with
  | .error .format => refuseWith s .format
  | x => match s.cursorReadRefusal with
    | some c => refuseWith s c
    | none => match x with
      | .error c => refuseWith s c
      | .ok (es, clamped) =>
        if s.cursor.table.size < s.cursor.offset + es.length then refuseWith s .range
        else compareEntries es clamped s

/-- TABLE-CLEAR (R93, R103, R134). -/
def reqTableClear (params : List Byte) (s : State) : Executed :=
  withNothing params s (match s.cursor.table with
    | .trans k => match (s.xlat.get k).writeRefusal s.cursor.page with
      | some c => refuseWith s c
      | none =>
        ackWith { s with xlat := vmod s.xlat k fun p => p.setEntries s.cursor.page (Vector.replicate 20 .reject) } .nothing
    | .code k => match (s.code.get k).writeRefusal s.cursor.page with
      | some c => refuseWith s c
      | none =>
        ackWith { s with code := vmod s.code k fun p => p.setEntries s.cursor.page (Vector.replicate 16 CodeEntry.cleared) }
          .nothing
    | .tone => ackWith { s with tones := ToneEntry.resetAll } .nothing)

/-- TABLE-CLEARCHECK (R94, R103, R134). -/
def reqTableClearcheck (params : List Byte) (s : State) : Executed :=
  withNothing params s (match s.cursorReadRefusal with
    | some c => refuseWith s c
    | none =>
      ackWith s (.clearCheck ((firstMismatch 0 s.cursorEntries s.cursorCleared).map fun x => (x.1, x.2.1))))

/-! ## Set requests (R95 to R98, R105) -/

/-- The roles of the two pages exchange (R96). -/
def PagedSet.swap {α : Type} {size : Nat} (p : PagedSet α size) : PagedSet α size := { p with active := p.active.other }

/-- The lock is set (R97). -/
def PagedSet.lock {α : Type} {size : Nat} (p : PagedSet α size) : PagedSet α size := { p with locked := true }

/-- Every entry of both pages cleared, lock clear, page A ACTIVE (R98). -/
def PagedSet.erase {α : Type} {size : Nat} (v : α) (p : PagedSet α size) : PagedSet α size :=
  { p with pageA := Vector.replicate size v, pageB := Vector.replicate size v, active := .a, locked := false }

/-- The state of a set, as set requests acknowledge it (R95). -/
def PagedSet.report {α : Type} {size : Nat} (p : PagedSet α size) : Result := .setState p.active p.locked p.boundA p.boundB

/-- LOCKED for a locked set (R96, R97). -/
def PagedSet.lockRefusal {α : Type} {size : Nat} (p : PagedSet α size) : Option RefusalCode :=
  if p.locked then some .locked else none

/-- BOUND for a set with a bound page (R98). -/
def PagedSet.eraseRefusal {α : Type} {size : Nat} (p : PagedSet α size) : Option RefusalCode :=
  if 0 < p.boundA ∨ 0 < p.boundB then some .bound else none

/-- A set request on a translation set. -/
def onTransSet (k : Fin 8) (refusal : TransSet → Option RefusalCode) (change : TransSet → TransSet) (s : State) : Executed :=
  match refusal (s.xlat.get k) with
  | some c => refuseWith s c
  | none => ackWith { s with xlat := vmod s.xlat k change } (change (s.xlat.get k)).report

/-- A set request on a code set. -/
def onCodeSet (k : Fin 4) (refusal : CodeSet → Option RefusalCode) (change : CodeSet → CodeSet) (s : State) : Executed :=
  match refusal (s.code.get k) with
  | some c => refuseWith s c
  | none => ackWith { s with code := vmod s.code k change } (change (s.code.get k)).report

/-- The checks that the three set requests share (R95): VALUE for a kind that is not TRANSLATION or CODE, then RANGE. -/
def onSet (params : List Byte) (s : State) (trans : Fin 8 → Executed) (code : Fin 4 → Executed) : Executed :=
  match params with
  | [kind, set] =>
    if kind = 2 then refuseWith s .value
    else match tableOf kind set with
      | .error c => refuseWith s c
      | .ok (.trans k) => trans k
      | .ok (.code k) => code k
      | .ok .tone => refuseWith s .value
  | _ => refuseWith s .format

/-- SET-SWAP (R96, R105). -/
def reqSetSwap (params : List Byte) (s : State) : Executed :=
  onSet params s (fun k => onTransSet k PagedSet.lockRefusal PagedSet.swap s)
    (fun k => onCodeSet k PagedSet.lockRefusal PagedSet.swap s)

/-- SET-LOCK (R97, R105). -/
def reqSetLock (params : List Byte) (s : State) : Executed :=
  onSet params s (fun k => onTransSet k PagedSet.lockRefusal PagedSet.lock s)
    (fun k => onCodeSet k PagedSet.lockRefusal PagedSet.lock s)

/-- SET-ERASE (R98, R105). -/
def reqSetErase (params : List Byte) (s : State) : Executed :=
  onSet params s (fun k => onTransSet k PagedSet.eraseRefusal (PagedSet.erase .reject) s)
    (fun k => onCodeSet k PagedSet.eraseRefusal (PagedSet.erase CodeEntry.cleared) s)

/-! ## Emitter, capture, quality and soft reset -/

/-- TONE-INSERT (R121): RANGE, VALUE, NOCALL, BUSY, in this order. -/
def reqToneInsert (params : List Byte) (s : State) : Executed :=
  match params with
  | [line, symbol, notify] =>
    match lineOf line with
    | none => refuseWith s .range
    | some n =>
      if h : symbol.toNat < 16 then
        if (s.callOf n).isNone then refuseWith s .nocall
        else if (s.line n).emission.slot.isSome then refuseWith s .busy
        else
          let t := s.modEmission n fun e => { e with slot := some ⟨⟨symbol.toNat, h⟩, notify.getLsbD 0, .waiting⟩ }
          ackWith t (.emitter (t.line n).emission.report)
      else refuseWith s .value
  | _ => refuseWith s .format

/-- HOLD set or cleared on a line with an open call (R129). -/
def setHold (hold : Bool) (n : LineId) (s : State) : Executed :=
  if (s.callOf n).isNone then refuseWith s .nocall
  else
    let t := s.modEmission n fun e => { e with hold := hold }
    ackWith t (.emitter (t.line n).emission.report)

/-- EMIT-HOLD (R129). -/
def reqEmitHold (params : List Byte) (s : State) : Executed := withLine params s fun n => setHold true n s

/-- EMIT-RESUME (R129). -/
def reqEmitResume (params : List Byte) (s : State) : Executed := withLine params s fun n => setHold false n s

/-- CAPTURE-READ (R116): the record as it stands, then emptied. -/
def reqCaptureRead (params : List Byte) (s : State) : Executed :=
  withLine params s fun n =>
    ackWith (s.modLine n fun l => { l with capture := none }) (.capture (s.line n).capture)

/-- QUALITY-READ (R154): the records as they stand; RESET_ON_READ then clears the speed extremes. -/
def reqQualityRead (params : List Byte) (s : State) : Executed :=
  withLine params s fun n =>
    ackWith
      (match (s.line n).config.meterMode with
        | .resetOnRead => s.modQuality n fun q => { q with extremes := none }
        | .hold => s)
      (.quality (s.line n).quality)

/-- SOFT-RESET (R172): BUSY while one is pending; otherwise acknowledged, and a soft reset is pending. -/
def reqSoftReset (params : List Byte) (s : State) : Executed :=
  withNothing params s
    (if s.softReset then refuseWith s .busy
    else ⟨{ s with softReset := true }, .ack false false .nothing, true⟩)

/-! ## Execution (R165) -/

/-- The request of a kind, on its parameters. -/
def runRequest (k : RequestKind) (params : List Byte) (s : State) : Executed :=
  match k with
  | .identify => reqIdentify params s
  | .partStatus => reqPartStatus params s
  | .partConfig => reqPartConfig params s
  | .lineStatus => reqLineStatus params s
  | .lineConfig => reqLineConfig params s
  | .lineReset => reqLineReset params s
  | .profileWrite => reqProfileWrite params s
  | .profileRead => reqProfileRead params s
  | .cursorSet => reqCursorSet params s
  | .tableWrite => reqTableWrite params s
  | .tableRead => reqTableRead params s
  | .tableCompare => reqTableCompare params s
  | .tableClear => reqTableClear params s
  | .tableClearcheck => reqTableClearcheck params s
  | .setSwap => reqSetSwap params s
  | .setLock => reqSetLock params s
  | .setErase => reqSetErase params s
  | .toneInsert => reqToneInsert params s
  | .emitHold => reqEmitHold params s
  | .emitResume => reqEmitResume params s
  | .captureRead => reqCaptureRead params s
  | .qualityRead => reqQualityRead params s
  | .softReset => reqSoftReset params s

/-- The checks and effects of a request: UNKNOWN for a KIND that names none (R165 check 1). -/
def answerRequest (r : Request) (s : State) : Executed :=
  match requestKindOf r.kind with
  | none => refuseWith s .unknown
  | some k => runRequest k r.params s

/-- Execution is one moment: effects, the one reply at the tail of the reply queue, the slot emptied (R165, R166). -/
def execute (r : Request) (s : State) : State :=
  let e := answerRequest r { s with slot := none }
  { e.state with replies := e.state.replies ++ [⟨r.tag, r.kind, e.answer, e.softReset⟩] }

/-- A request in the slot is executed once the reply queue holds fewer than 4 replies (R165). -/
def runSlot (s : State) : State :=
  match s.slot with
  | none => s
  | some r => if s.replies.length < 4 then execute r s else s

/-- A good message is offered to the request slot: it takes an empty slot, and is discarded at an occupied one (R164). -/
def offer (r : Request) (s : State) : State :=
  match s.slot with
  | none => runSlot { s with slot := some r }
  | some _ => raiseRequestDiscard s

end Sys2Proof.Machine
end

