-- ==== Sys2Proof/Machine/Management.lean ====
section
/-! DEFINITION. The receiver and the transmitter of the Management Channel, and the soft reset (chapter 11). -/

namespace Sys2Proof.Machine

/-! ## The receiver (R162) -/

/-- The request that a body spells: KIND, TAG and parameters (R161). -/
def requestOf : List Byte → Option Request
  | kind :: tag :: params => some ⟨kind, tag, params⟩
  | _ => none

/-- After the second check octet: a good message is offered to the request slot, a bad one is rejected (R162). -/
def finishMessage (got : List Byte) (first second : Byte) (s : State) : State :=
  let covered := octet got.length :: got
  let t := { s with receiver := .seek }
  if first = checkSum covered ∧ second = checkXor covered then
    match requestOf got with
    | some r => offer r t
    | none => t
  else raiseCheckFail t

/-- One octet arrival (R162). -/
def receiveOctet (b : Byte) (s : State) : State :=
  match s.receiver with
  | .seek => if b = syncOctet then { s with receiver := .length } else s
  | .length =>
    if 2 ≤ b.toNat ∧ b.toNat ≤ 64 then { s with receiver := .body b.toNat [] }
    else raiseCheckFail { s with receiver := .seek }
  | .body len got =>
    let more := got ++ [b]
    { s with receiver := if len ≤ more.length then .check more none else .body len more }
  | .check got none => { s with receiver := .check got (some b) }
  | .check got (some first) => finishMessage got first b s

/-! ## The soft reset (R172) -/

/-- The pending soft reset acts, all at once. -/
def softResetNow (s : State) : State :=
  { forLines lineReset s with
    partEvents := 0
    checkFailures := 0
    discardedRequests := 0
    attention := false
    slot := none
    replies := []
    tx := none
    lastSent := .notice
    softReset := false }

/-! ## The transmitter (R168) -/

/-- Step 1 of R168 applies: the transmitter is free, attention is wanted, and either no reply waits or the last message sent
was a reply. -/
def State.attentionTurn (s : State) : Bool :=
  s.tx.isNone && s.attention && (s.replies.isEmpty || s.lastSent = .reply)

/-- Step 1 of R168: the snapshot is taken and the flag clears; a notice begins if the snapshot has a member (R160, R169). -/
def startAttention (s : State) : State :=
  let t := { s with attention := false }
  if s.linesInMap.isEmpty && !s.partInMap then t
  else { t with tx := some ⟨messageOctets (noticeBody s.linesInMap s.partInMap), false⟩, lastSent := .notice }

/-- Step 2 of R168: the oldest reply leaves the queue and begins, and a waiting request is executed at this moment (R165). -/
def startReply (s : State) : State :=
  match s.replies with
  | [] => s
  | r :: rest => runSlot { s with replies := rest, tx := some ⟨messageOctets r.body, r.softReset⟩, lastSent := .reply }

/-- Step 1 of R168, where it applies. -/
def chooseNotice (s : State) : State := if s.attentionTurn then startAttention s else s

/-- The choice at a free position (R168). -/
def chooseMessage (s : State) : State :=
  let t := chooseNotice s
  if t.tx.isNone then startReply t else t

/-- The last octet of a message has been sent; the SOFT-RESET reply brings the reset (R172). -/
def endMessage (softReset : Bool) (s : State) : State := if softReset then softResetNow s else { s with tx := none }

/-- One octet position of the SU management slot: the octet sent, and the state after it (R168). -/
def sendOctet (s : State) : Byte × State :=
  let t := if s.tx.isNone then chooseMessage s else s
  match t.tx with
  | none => (0x00, t)
  | some ⟨[], _⟩ => (0x00, { t with tx := none })
  | some ⟨[b], softReset⟩ => (b, endMessage softReset t)
  | some ⟨b :: c :: rest, softReset⟩ => (b, { t with tx := some ⟨c :: rest, softReset⟩ })

end Sys2Proof.Machine
end

