-- ==== Sys2Proof/WellFormed.lean ====
section
/-! DEFINITION. Which terms are commands: what the operands of each row can be. -/

namespace Sys2Proof

/-- KIND and TAG take two of the at most 64 body octets (R161), so at most 62 octets of parameters follow. -/
def paramsFit (params : List Byte) : Bool := params.length ≤ 62

/-- KIND names one of the 23 requests: codes 0x01 to 0x17 (chapter 12.2). -/
def kindNamed (kind : Byte) : Bool := 1 ≤ kind.toNat && kind.toNat ≤ 0x17

/-- The ranges a digit report is held to: 1–20 pulses, at most as many of them distorted (R61, R77), a speed of at most 999.
DESIGN CHOICE (log entry 20): the items are not held to one another, nor a speed to the 8–987 of R153. A report that no decoder makes (R61,
R78, R153: a speed on a digit of one pulse or on a rejected one, a speed of 0–7 or 988–999, a speed-out mark without a speed or on a
rejected digit) is well formed, and QUALITY_WINDOW_END applies it as R151 and R153 apply a report. -/
def DigitReport.wf (r : DigitReport) : Bool :=
  1 ≤ r.pulses && r.pulses ≤ 20 && r.distorted ≤ r.pulses && r.speed.all (· ≤ 999)

/-- A term that names a possible command. -/
def Instr.wf : Instr → Bool
  | .qualityWindowEnd _ r => r.wf
  | .partConfigWrite _ ps => !ps.isEmpty && paramsFit ps
  | .unknownRequest k _ ps => !kindNamed k && paramsFit ps
  | .identify _ ps | .partStatus _ ps | .lineStatus _ ps | .lineConfig _ ps | .lineReset _ ps
  | .profileWrite _ ps | .profileRead _ ps | .cursorSet _ ps | .tableWrite _ ps | .tableRead _ ps
  | .tableCompare _ ps | .tableClear _ ps | .tableClearcheck _ ps | .setSwap _ ps | .setLock _ ps
  | .setErase _ ps | .toneInsert _ ps | .emitHold _ ps | .emitResume _ ps | .captureRead _ ps
  | .qualityRead _ ps | .softReset _ ps => paramsFit ps
  | .powerOnReset | .huntMarkerFound .. | .markerCheck .. | .alignmentLock .. | .alignmentLoss _ | .outputFrame
  | .loopTransition _ | .faultStateChange _ | .seizeExpiry _ | .digitEndExpiry _ | .dialIdleExpiry _
  | .clearExpiry _ | .lossHoldExpiry | .firstWaitEnd _ | .emitterTakeItem _ | .burstEnd _ | .gapEnd _
  | .flashOpenEnd _ | .guardEnd _ | .muteWaitLimit _ | .replyStart | .attention | .softResetAction
  | .partConfigRead _ => true

end Sys2Proof
end

