-- ==== Sys2Proof/Machine/Alignment.lean ====
section
/-! DEFINITION. The alignment machines and the delivery of frames (chapter 1), with the commands that move them. -/

namespace Sys2Proof.Machine

/-- The alignment machine of a direction. -/
def State.aligner (s : State) : Direction → Aligner
  | .lu => s.lu
  | .sd => s.sd

/-- Replaces the alignment machine of a direction. -/
def State.setAligner (s : State) (d : Direction) (a : Aligner) : State :=
  match d with
  | .lu => { s with lu := a }
  | .sd => { s with sd := a }

/-! ## HUNT (R5) -/

/-- HUNT with nothing examined yet: the search begins from the point the stream has reached (R5 to R7). -/
def Aligner.hunting : Aligner := ⟨.hunt, 0, 0, 0, 0⟩

/-- CONFIRM with a confirmation count (R5, R6). -/
def Aligner.confirming (count : Nat) : Aligner := ⟨.confirm, count, 0, 0, 0⟩

/-- LOCKED with no miss (R6, R7). -/
def Aligner.lockedOn : Aligner := ⟨.locked, 0, 0, 0, 0⟩

/-- FLYWHEEL with its misses (R7). -/
def Aligner.coasting (misses : Nat) : Aligner := ⟨.flywheel, 0, misses, 0, 0⟩

/-- Examines stream bits at every bit position until a 16-bit window equals the marker; that fixes the frame position, and the
bits after the window belong to the frame found (R5, log entry 5).
R5 expects the next marker 800 bits after the start of the one found. Bits of the same list from there on, more than 784 after the window,
are dropped too, and no marker check is made on them: a check is a MARKER_CHECK command (DESIGN CHOICE, log entry 5). -/
def Aligner.hunt (a : Aligner) : List Bool → Aligner
  | [] => a
  | b :: bits =>
    let window := (a.window <<< 1) ||| (BitVec.ofBool b).setWidth 16
    let seen := min 16 (a.seen + 1)
    if seen = 16 ∧ window = markerWord then Aligner.confirming 1
    else Aligner.hunt { a with window := window, seen := seen } bits

/-- The port of a direction examines stream bits if its machine is in HUNT. -/
def huntBits (d : Direction) (bits : List Bool) (s : State) : State :=
  if (s.aligner d).state = .hunt then s.setAligner d ((s.aligner d).hunt bits) else s

/-! ## Delivery (R3, R4, R10, R12) -/

/-- A frame is delivered: an LU frame takes the waiting place (R10); an SD frame paces one output frame with its channels and
hands its two octets to the receiver, the high octet first (R12; the list of frames that wait to pace is log entry 6). R12 says only
that these happen at once: that the octets reach the receiver, and a request they complete meets the slot and is executed where there is
room, before the output frame that the SD frame paces starts is the model's choice (log entry 24). -/
def deliver (d : Direction) (f : Frame) (s : State) : State :=
  match d with
  | .lu => { s with waiting := some f.channels }
  | .sd => receiveOctet f.mgmtLow (receiveOctet f.mgmtHigh { s with paced := s.paced ++ [f.channels] })

/-- LOCKED is entered from CONFIRM, and the frame is delivered (R6, R9): an LU lock cancels a loss hold (R13), an SD lock makes
SD the clock source (R4). -/
def lockOn (d : Direction) (f : Frame) (s : State) : State :=
  let t := s.setAligner d Aligner.lockedOn
  deliver d f (match d with
    | .lu => latchPart .luLock { t with lossHold := none }
    | .sd => latchPart .sdLock { t with clock := .sd })

/-- A receiver that holds a partial message discards it (R163). -/
def discardPartial (s : State) : State := { s with receiver := .seek }

/-- HUNT is entered from LOCKED or FLYWHEEL (R7, R9): an LU loss starts the loss hold and discards the waiting frame (R10,
R13), an SD loss lets the clock run free, resets the receiver and leaves no SD frame to carry (R3, R4, R12, R163): one delivered before
the loss whose output frame has not started is discarded (read from R3, log entry 6). -/
def loseAlignment (d : Direction) (s : State) : State :=
  let t := s.setAligner d Aligner.hunting
  match d with
  | .lu => latchPart .luLoss { t with lossHold := some ⟨s.part.lossHold * 8, 0⟩, waiting := none }
  | .sd => latchPart .sdLoss (discardPartial { t with clock := .freeRunning, paced := [] })

/-! ## The marker check (R5 to R8) -/

/-- A marker check is a hit when all 16 bits are equal (R5). -/
def isHit (f : Frame) : Bool := f.marker = markerWord

/-- A hit in CONFIRM would complete the confirmation (R6). -/
def lockDue (d : Direction) (s : State) : Bool :=
  (s.aligner d).state = .confirm && s.part.backProt ≤ (s.aligner d).confirmCount + 1

/-- A miss while up would reach FWD_PROT (R7). -/
def lossDue (d : Direction) (s : State) : Bool :=
  (s.aligner d).up && s.part.fwdProt ≤ (s.aligner d).misses + 1

/-- The marker check of a frame, with the delivery that its outcome brings (R6, R7). -/
def checkMarker (d : Direction) (f : Frame) (s : State) : State :=
  let a := s.aligner d
  match a.state with
  | .hunt => s
  | .confirm =>
    if isHit f then
      if lockDue d s then lockOn d f s else s.setAligner d (Aligner.confirming (a.confirmCount + 1))
    else s.setAligner d Aligner.hunting
  | .locked | .flywheel =>
    if isHit f then deliver d f (s.setAligner d Aligner.lockedOn)
    else if lossDue d s then loseAlignment d s
    else deliver d f (s.setAligner d (Aligner.coasting (a.misses + 1)))

/-! ## Commands -/

/-- HUNT_MARKER_FOUND (R5): the port examines the next bits of the stream if it is in HUNT. It makes no marker check at an expected
position, not even where the bits reach past the frame found (DESIGN CHOICE, log entry 5). -/
def execHuntMarkerFound (d : Direction) (bits : List Bool) (s : State) : Host.Outcome State Fault Refusal :=
  .next (huntBits d bits s)

/-- MARKER_CHECK (R5 to R8): the frame at the expected position. In HUNT there is no such position and the 800 bits are
examined one by one; a check that enters HUNT leaves the 784 bits after the marker to the search (log entry 5). -/
def execMarkerCheck (d : Direction) (slots : Slots) (s : State) : Host.Outcome State Fault Refusal :=
  if (s.aligner d).state = .hunt then .next (huntBits d (slotsBits slots.toList) s)
  else .next (huntBits d (slotsBits (slots.toList.drop 1)) (checkMarker d (Frame.ofSlots slots) s))

/-- ALIGNMENT_LOCK (R6): the frame whose hit completes the confirmation; no lock otherwise (log entry 1). -/
def execAlignmentLock (d : Direction) (slots : Slots) (s : State) : Host.Outcome State Fault Refusal :=
  let f := Frame.ofSlots slots
  .next (if lockDue d s && isHit f then lockOn d f s else s)

/-- ALIGNMENT_LOSS (R7): the miss that loses alignment, taken alone: the 784 bits after it are not searched; no loss otherwise
(the model's choice, log entries 1 and 5). -/
def execAlignmentLoss (d : Direction) (s : State) : Host.Outcome State Fault Refusal :=
  .next (if lossDue d s then loseAlignment d s else s)

end Sys2Proof.Machine
end

