-- ==== Sys2Proof/Machine/EmitterEvents.lean ====
section
/-! DEFINITION. The output-frame events of one line, taken by themselves (log entry 1): each is the output frame in which the
event comes about, and no event where it would not. -/

namespace Sys2Proof.Machine

/-- FIRST_WAIT_END (R128): the count reaches 0 and FIRST_WAIT clears. -/
def execFirstWaitEnd (n : LineId) (s : State) : Host.Outcome State Fault Refusal :=
  .next (match (s.line n).emission.firstWait with
    | some c => if c ≤ 1 then countFirstWait n s else s
    | none => s)

/-- EMITTER_TAKE_ITEM (R124): a QUIET, unheld emitter takes the WAITING slot or the queue head. -/
def execEmitterTakeItem (n : LineId) (s : State) : Host.Outcome State Fault Refusal := .next (takeIfFree n s)

/-- BURST_END (R125): the last burst sample has been carried, and the emitter enters GAP. -/
def execBurstEnd (n : LineId) (s : State) : Host.Outcome State Fault Refusal :=
  .next (match (s.line n).emission.state with
    | .tone b => if b.remaining = 0 then endBurst n b s else s
    | _ => s)

/-- GAP_END (R122, R125): the gap is over, and the emitter returns to QUIET. -/
def execGapEnd (n : LineId) (s : State) : Host.Outcome State Fault Refusal :=
  .next (match (s.line n).emission.state with
    | .gap 0 => endGap n s
    | _ => s)

/-- FLASH_OPEN_END (R126): the opening is over, and the emitter enters GUARD. -/
def execFlashOpenEnd (n : LineId) (s : State) : Host.Outcome State Fault Refusal :=
  .next (match (s.line n).emission.state with
    | .flashOut 0 g => endFlash n g s
    | _ => s)

/-- GUARD_END (R126): the guard is over, and the emitter returns to QUIET. -/
def execGuardEnd (n : LineId) (s : State) : Host.Outcome State Fault Refusal :=
  .next (match (s.line n).emission.state with
    | .guard 0 => endGuard n s
    | _ => s)

/-- The zero-cross wait of a line reaches 8 in this output frame: PENDING, no immediate source, a zero-cross source (R141). -/
def waitLimitDue (n : LineId) (s : State) : Bool :=
  !(s.sourcesOf n).immediate && (s.sourcesOf n).zeroCross &&
  match (s.line n).voice.mute with
  | .pending w => 8 ≤ w + 1
  | .passing | .muted => false

/-- MUTE_WAIT_LIMIT (R141): the wait count reaches 8 in PENDING, and the line becomes MUTED. -/
def execMuteWaitLimit (n : LineId) (s : State) : Host.Outcome State Fault Refusal :=
  .next (if waitLimitDue n s then s.modLine n fun l => { l with voice := { l.voice with mute := .muted } } else s)

end Sys2Proof.Machine
end

