-- ==== Sys2Proof/Machine/LineEvents.lean ====
section
/-! DEFINITION. The line-time events of one line, taken by themselves (log entry 1): each is the whole sample arrival at which the event
comes about, through all the steps of R47, and no event where it would not. While LU is not up no sample arrives, filter and decoder
are frozen and no timer expires (R11, R43, R48, R69), so each changes nothing there. -/

namespace Sys2Proof.Machine

/-- The line with one more agreeing loop sample: A grows and a run in progress is aborted, which a CONVERT line reports (R35). -/
def agreeingSample (n : LineId) (s : State) : State :=
  let (f, r) := (s.line n).filter.agree
  let t := s.setFilter n f
  if r = .aborted ∧ (s.line n).config.mode = .convert then reportAborted n t else t

/-- One arrival of the line with both samples as its filter stands. -/
def agreeingArrival (n : LineId) (s : State) : State := arrival n (s.line n).filter.stableSample (s.line n).filter.fault s

/-- The agreeing arrival of a CONVERT line at which a timer expires (R47): due is asked of the line with the L sample taken. -/
def expiryArrival (due : LineId → State → Bool) (n : LineId) (s : State) : State :=
  if (s.line n).config.mode = .convert ∧ due n (agreeingSample n s) = true then agreeingArrival n s else s

/-- LOOP_TRANSITION (R34): the arrival whose contrary L sample brings the run to the protection count. The transition is confirmed with
D = A − r and acts on the line, the timers and the dial-idle count are compared after it, and the exit of a decoder in FAULT is tested
(R42, R47, R54, R63, R68, R76). Its G sample is F (log entry 1).
While LU is not up nothing changes (R43, R48). -/
def execLoopTransition (n : LineId) (s : State) : Host.Outcome State Fault Refusal :=
  let f := (s.line n).filter
  .next (atArrival s (match (f.contrary (f.protection (s.profileOf n))).2 with
    | .confirmed _ _ => arrival n (!f.stableSample) f.fault s
    | .nothing | .aborted => s))

/-- FAULT_STATE_CHANGE (R40): the arrival whose G sample brings the fault run to 16: F takes its value, the event is latched, and the
decoder enters FAULT or has its exit tested (R41, R67, R68). Its L sample agrees with the loop state (log entry 1).
While LU is not up nothing changes (R43, R48). -/
def execFaultStateChange (n : LineId) (s : State) : Host.Outcome State Fault Refusal :=
  let f := (s.line n).filter
  .next (atArrival s (match (f.takeFault (!f.fault)).2 with
    | some g => arrival n f.stableSample g s
    | none => s))

/-- SEIZE_EXPIRY (R50): the arrival that brings the measured closed length of a decoder in SEIZING to its threshold.
While LU is not up no timer expires (R48, R69). -/
def execSeizeExpiry (n : LineId) (s : State) : Host.Outcome State Fault Refusal :=
  .next (atArrival s (expiryArrival seizeDue n s))

/-- DIGIT_END_EXPIRY (R60, R62, R76): the arrival that brings the make accumulator plus the measured closed length to the threshold in
force.
While LU is not up no timer expires (R48, R69). -/
def execDigitEndExpiry (n : LineId) (s : State) : Host.Outcome State Fault Refusal :=
  .next (atArrival s (expiryArrival digitEndDue n s))

/-- QUALITY_WINDOW_END (R152): a digit report of a CONVERT line, applied whole, with which the window ends.
The report is an operand: one within the ranges of DigitReport.wf that no decoder makes counts, and its speed widens the extremes, like
any other (R151, R153; DESIGN CHOICE, log entry 20).
The decoder is neither asked nor changed: the report is applied and the window ends also in a state in which no digit can end (IDLE,
SEIZING, FAULT, a call with no digit in progress; R61), and the digit's other effects (its end in the decoder, DIGIT-REJECT) are not part
of it (DESIGN CHOICE, log entries 1 and 20).
While LU is not up no arrival brings a digit report, and nothing changes (read from R48 and R151, log entry 1). -/
def execQualityWindowEnd (n : LineId) (report : DigitReport) (s : State) : Host.Outcome State Fault Refusal :=
  if (Instr.qualityWindowEnd n report).wf then
    let t := applyReport n report s
    .next (atArrival s (if (s.line n).config.mode = .convert ∧ windowDone n t = true then endWindow n t else s))
  else .fault .illFormed

/-- DIAL_IDLE_EXPIRY (R63, R109): the arrival at which the dial-idle count of a MATCHING call reaches DIAL_IDLE × 8; the screen
resolves by timeout.
While LU is not up the timer stands still (R48, R69). -/
def execDialIdleExpiry (n : LineId) (s : State) : Host.Outcome State Fault Refusal :=
  .next (atArrival s (expiryArrival dialIdleExpires n s))

/-- CLEAR_EXPIRY (R64): the arrival at which the measured break first exceeds FLASH_MAX × 8.
While LU is not up no timer expires (R48, R69). -/
def execClearExpiry (n : LineId) (s : State) : Host.Outcome State Fault Refusal :=
  .next (atArrival s (expiryArrival clearDue n s))

end Sys2Proof.Machine
end

