-- ==== Sys2Proof/Machine/ManagementEvents.lean ====
section
/-! DEFINITION. The moments of the transmitter, taken by themselves (log entry 1). -/

namespace Sys2Proof.Machine

/-- REPLY_START (R165, R168): at a free position where the choice falls on a reply, the oldest reply begins and a waiting
request is executed; elsewhere nothing starts. -/
def execReplyStart (s : State) : Host.Outcome State Fault Refusal :=
  .next (if s.tx.isNone && !s.replies.isEmpty && (chooseNotice s).tx.isNone then startReply (chooseNotice s) else s)

/-- ATTENTION (R160, R168, R169): at a free position with attention wanted, and either no reply waiting or a reply sent last,
the snapshot is taken, the flag clears, and a notice begins if the snapshot is not empty. -/
def execAttention (s : State) : Host.Outcome State Fault Refusal := .next (chooseNotice s)

/-- SOFT_RESET_ACTION (R172): the last octet of the SOFT-RESET reply is sent, and the reset acts. -/
def execSoftResetAction (s : State) : Host.Outcome State Fault Refusal :=
  .next (match s.tx with
    | some ⟨[_], true⟩ => softResetNow s
    | _ => s)

end Sys2Proof.Machine
end

