-- ==== Sys2Proof/Machine/OutputFrame.lean ====
section
/-! DEFINITION. The output frame (R10, R139), the loss hold expiry (R14) and power-on reset (R16). -/

namespace Sys2Proof.Machine

/-! ## The loss hold (R13, R14) -/

/-- The loss hold expiry on one line (R14): an open call clears with LINK-CLEAR; a decoder in FAULT stays there and any other
is in IDLE; the filter's loop state is reset; a line thereby idle takes its PENDING_MODE. -/
def linkExpiry (n : LineId) (s : State) : State :=
  let l := s.line n
  let after : Decoder := if l.decoder = .fault then .fault else .idle
  let t := (clearCall n after s).setFilter n l.filter.linkReset
  let u := if l.decoder.call.isSome then latch n .linkClear t else t
  match l.config.mode with
  | .convert => if after = .idle then becomeIdle n u else u
  | .pass => becomeIdle n u
  | .parked => u

/-- The loss hold has counted its full length: it acts on every line and ends (R14). -/
def expireLossHold (s : State) : State := forLines linkExpiry { s with lossHold := none }

/-- The output frame that now starts completes the loss hold. -/
def lossHoldDue (s : State) : Bool := s.lossHold.any fun h => h.length ≤ h.counted + 1

/-- A running loss hold counts one output frame and expires when it has counted its length (R13). -/
def countLossHold (s : State) : State :=
  if lossHoldDue s then expireLossHold s
  else { s with lossHold := s.lossHold.map fun h => { h with counted := h.counted + 1 } }

/-! ## Carrying (R10, R33) -/

/-- The waiting frame is carried: every line's L and G go to its Loop Filter, the voice samples are kept as the last carried
samples, and the waiting place empties; otherwise no line receives anything (R10, R11). -/
def carry (s : State) : State :=
  match s.waiting with
  | none => s
  | some cs =>
    forLines (fun n => arrival n (cs.get n).a (cs.get n).b)
      { s with waiting := none, lastVoice := vtab fun n => (cs.get n).voice }

/-! ## The frame -/

/-- The frame clock ticks: while SD paces, only for a delivered SD frame whose output frame has not started (R4, log entry 6). -/
def State.ticks (s : State) : Bool := s.clock = .freeRunning || !s.paced.isEmpty

/-- The LD frame: while SD is up the channels of the SD frame that paces it, and idle channels otherwise (R1, R3). -/
def formLD (s : State) : State :=
  { s with
    ld := { Frame.idle with channels := if s.sd.up then s.paced.headD Frame.idle.channels else Frame.idle.channels }
    paced := s.paced.tail }

/-- The lines' part of an output frame, before the Voice Selectors: FIRST_WAIT and the loss hold count it, the waiting frame
is carried, and the emitters take it (R13, R123, R128, log entry 7). -/
def lineFrames (s : State) : State :=
  let t := carry (countLossHold (forLines countFirstWait s))
  forLines emitterFrame (forLines (settleRace s) t)

/-- The Voice Selectors form the SU channels, and the transmitter fills the management slot with two octets (R139, R168). -/
def formSU (s : State) : State :=
  let t := forLines voiceFrame s
  let channels := vtab t.suChannel
  let (high, u) := sendOctet t
  let (low, v) := sendOctet u
  { v with su := ⟨markerWord, high, low, channels⟩ }

/-- One output frame. -/
def outputFrame (s : State) : State := formSU (lineFrames (formLD s))

/-! ## Commands -/

/-- POWER_ON_RESET (R16): every block is at its power-on state; the commands still waiting stay in the queue, and the model's own
count of free values goes on, so that no later one repeats an earlier one (log entry 8). -/
def execPowerOnReset (s : State) : Host.Outcome State Fault Refusal :=
  .next { State.reset with pending := s.pending, raceCount := s.raceCount }

/-- OUTPUT_FRAME (R4, R10, R139): at a tick of the frame clock one output frame starts. -/
def execOutputFrame (s : State) : Host.Outcome State Fault Refusal := .next (if s.ticks then outputFrame s else s)

/-- LOSS_HOLD_EXPIRY (R14): the output frame that completes the loss hold; no expiry otherwise (log entry 1). -/
def execLossHoldExpiry (s : State) : Host.Outcome State Fault Refusal := .next (if lossHoldDue s then expireLossHold s else s)

end Sys2Proof.Machine
end

