-- ==== Sys2Proof/Machine/RequestCommands.lean ====
section
/-! DEFINITION. The request commands: each is a complete good message offered to the request slot (R164, log entry 4), where it is
executed at its moment (R165) with the effect that Requests.lean gives its kind. -/

namespace Sys2Proof.Machine

/-- The message of a well-formed request command is offered to the request slot (R164, R165). -/
def offerCommand (c : Instr) (r : Request) (s : State) : Host.Outcome State Fault Refusal :=
  if c.wf then .next (offer r s) else .fault .illFormed

/-- PART_CONFIG_READ (R31): the message carries no record. -/
def execPartConfigRead (tag : Byte) (s : State) : Host.Outcome State Fault Refusal :=
  offerCommand (.partConfigRead tag) ⟨RequestKind.partConfig.code, tag, []⟩ s

/-- IDENTIFY (R171): effect `reqIdentify`. -/
def execIdentify (tag : Byte) (params : List Byte) (s : State) : Host.Outcome State Fault Refusal :=
  offerCommand (.identify tag params) ⟨RequestKind.identify.code, tag, params⟩ s

/-- PART_STATUS (R159): effect `reqPartStatus`. -/
def execPartStatus (tag : Byte) (params : List Byte) (s : State) : Host.Outcome State Fault Refusal :=
  offerCommand (.partStatus tag params) ⟨RequestKind.partStatus.code, tag, params⟩ s

/-- PART_CONFIG_WRITE (R31, R32): effect `reqPartConfig`. -/
def execPartConfigWrite (tag : Byte) (params : List Byte) (s : State) : Host.Outcome State Fault Refusal :=
  offerCommand (.partConfigWrite tag params) ⟨RequestKind.partConfig.code, tag, params⟩ s

/-- LINE_STATUS (R158): effect `reqLineStatus`. -/
def execLineStatus (tag : Byte) (params : List Byte) (s : State) : Host.Outcome State Fault Refusal :=
  offerCommand (.lineStatus tag params) ⟨RequestKind.lineStatus.code, tag, params⟩ s

/-- LINE_CONFIG (R24 to R29): effect `reqLineConfig`. -/
def execLineConfig (tag : Byte) (params : List Byte) (s : State) : Host.Outcome State Fault Refusal :=
  offerCommand (.lineConfig tag params) ⟨RequestKind.lineConfig.code, tag, params⟩ s

/-- LINE_RESET (R30): effect `reqLineReset`. -/
def execLineReset (tag : Byte) (params : List Byte) (s : State) : Host.Outcome State Fault Refusal :=
  offerCommand (.lineReset tag params) ⟨RequestKind.lineReset.code, tag, params⟩ s

/-- PROFILE_WRITE (R18, R19): effect `reqProfileWrite`. -/
def execProfileWrite (tag : Byte) (params : List Byte) (s : State) : Host.Outcome State Fault Refusal :=
  offerCommand (.profileWrite tag params) ⟨RequestKind.profileWrite.code, tag, params⟩ s

/-- PROFILE_READ (R20): effect `reqProfileRead`. -/
def execProfileRead (tag : Byte) (params : List Byte) (s : State) : Host.Outcome State Fault Refusal :=
  offerCommand (.profileRead tag params) ⟨RequestKind.profileRead.code, tag, params⟩ s

/-- CURSOR_SET (R170): effect `reqCursorSet`. -/
def execCursorSet (tag : Byte) (params : List Byte) (s : State) : Host.Outcome State Fault Refusal :=
  offerCommand (.cursorSet tag params) ⟨RequestKind.cursorSet.code, tag, params⟩ s

/-- TABLE_WRITE (R90, R103, R133): effect `reqTableWrite`. -/
def execTableWrite (tag : Byte) (params : List Byte) (s : State) : Host.Outcome State Fault Refusal :=
  offerCommand (.tableWrite tag params) ⟨RequestKind.tableWrite.code, tag, params⟩ s

/-- TABLE_READ (R91, R103, R133): effect `reqTableRead`. -/
def execTableRead (tag : Byte) (params : List Byte) (s : State) : Host.Outcome State Fault Refusal :=
  offerCommand (.tableRead tag params) ⟨RequestKind.tableRead.code, tag, params⟩ s

/-- TABLE_COMPARE (R92, R104, R133): effect `reqTableCompare`. -/
def execTableCompare (tag : Byte) (params : List Byte) (s : State) : Host.Outcome State Fault Refusal :=
  offerCommand (.tableCompare tag params) ⟨RequestKind.tableCompare.code, tag, params⟩ s

/-- TABLE_CLEAR (R93, R103, R134): effect `reqTableClear`. -/
def execTableClear (tag : Byte) (params : List Byte) (s : State) : Host.Outcome State Fault Refusal :=
  offerCommand (.tableClear tag params) ⟨RequestKind.tableClear.code, tag, params⟩ s

/-- TABLE_CLEARCHECK (R94, R103, R134): effect `reqTableClearcheck`. -/
def execTableClearcheck (tag : Byte) (params : List Byte) (s : State) : Host.Outcome State Fault Refusal :=
  offerCommand (.tableClearcheck tag params) ⟨RequestKind.tableClearcheck.code, tag, params⟩ s

/-- SET_SWAP (R96, R105): effect `reqSetSwap`. -/
def execSetSwap (tag : Byte) (params : List Byte) (s : State) : Host.Outcome State Fault Refusal :=
  offerCommand (.setSwap tag params) ⟨RequestKind.setSwap.code, tag, params⟩ s

/-- SET_LOCK (R97, R105): effect `reqSetLock`. -/
def execSetLock (tag : Byte) (params : List Byte) (s : State) : Host.Outcome State Fault Refusal :=
  offerCommand (.setLock tag params) ⟨RequestKind.setLock.code, tag, params⟩ s

/-- SET_ERASE (R98, R105): effect `reqSetErase`. -/
def execSetErase (tag : Byte) (params : List Byte) (s : State) : Host.Outcome State Fault Refusal :=
  offerCommand (.setErase tag params) ⟨RequestKind.setErase.code, tag, params⟩ s

/-- TONE_INSERT (R121): effect `reqToneInsert`. -/
def execToneInsert (tag : Byte) (params : List Byte) (s : State) : Host.Outcome State Fault Refusal :=
  offerCommand (.toneInsert tag params) ⟨RequestKind.toneInsert.code, tag, params⟩ s

/-- EMIT_HOLD (R129): effect `reqEmitHold`. -/
def execEmitHold (tag : Byte) (params : List Byte) (s : State) : Host.Outcome State Fault Refusal :=
  offerCommand (.emitHold tag params) ⟨RequestKind.emitHold.code, tag, params⟩ s

/-- EMIT_RESUME (R129): effect `reqEmitResume`. -/
def execEmitResume (tag : Byte) (params : List Byte) (s : State) : Host.Outcome State Fault Refusal :=
  offerCommand (.emitResume tag params) ⟨RequestKind.emitResume.code, tag, params⟩ s

/-- CAPTURE_READ (R116): effect `reqCaptureRead`. -/
def execCaptureRead (tag : Byte) (params : List Byte) (s : State) : Host.Outcome State Fault Refusal :=
  offerCommand (.captureRead tag params) ⟨RequestKind.captureRead.code, tag, params⟩ s

/-- QUALITY_READ (R154): effect `reqQualityRead`. -/
def execQualityRead (tag : Byte) (params : List Byte) (s : State) : Host.Outcome State Fault Refusal :=
  offerCommand (.qualityRead tag params) ⟨RequestKind.qualityRead.code, tag, params⟩ s

/-- SOFT_RESET (R172): effect `reqSoftReset`. -/
def execSoftReset (tag : Byte) (params : List Byte) (s : State) : Host.Outcome State Fault Refusal :=
  offerCommand (.softReset tag params) ⟨RequestKind.softReset.code, tag, params⟩ s

/-- UNKNOWN_REQUEST (R165, R174): a KIND that names no request is refused UNKNOWN at its execution. -/
def execUnknownRequest (kind tag : Byte) (params : List Byte) (s : State) : Host.Outcome State Fault Refusal :=
  offerCommand (.unknownRequest kind tag params) ⟨kind, tag, params⟩ s

end Sys2Proof.Machine
end

