-- ==== Sys2Proof/Machine/Dispatch.lean ====
section
/-! DEFINITION. The meaning of every command: one arm for each row of the table. -/

namespace Sys2Proof.Machine

def exec (i : Instr) (s : State) : Host.Outcome State Fault Refusal :=
  match i with
  | .powerOnReset => Sys2Proof.Machine.execPowerOnReset s
  | .huntMarkerFound d bits => Sys2Proof.Machine.execHuntMarkerFound d bits s
  | .markerCheck d slots => Sys2Proof.Machine.execMarkerCheck d slots s
  | .alignmentLock d slots => Sys2Proof.Machine.execAlignmentLock d slots s
  | .alignmentLoss d => Sys2Proof.Machine.execAlignmentLoss d s
  | .outputFrame => Sys2Proof.Machine.execOutputFrame s
  | .loopTransition n => Sys2Proof.Machine.execLoopTransition n s
  | .faultStateChange n => Sys2Proof.Machine.execFaultStateChange n s
  | .seizeExpiry n => Sys2Proof.Machine.execSeizeExpiry n s
  | .digitEndExpiry n => Sys2Proof.Machine.execDigitEndExpiry n s
  | .qualityWindowEnd n report => Sys2Proof.Machine.execQualityWindowEnd n report s
  | .dialIdleExpiry n => Sys2Proof.Machine.execDialIdleExpiry n s
  | .clearExpiry n => Sys2Proof.Machine.execClearExpiry n s
  | .lossHoldExpiry => Sys2Proof.Machine.execLossHoldExpiry s
  | .firstWaitEnd n => Sys2Proof.Machine.execFirstWaitEnd n s
  | .emitterTakeItem n => Sys2Proof.Machine.execEmitterTakeItem n s
  | .burstEnd n => Sys2Proof.Machine.execBurstEnd n s
  | .gapEnd n => Sys2Proof.Machine.execGapEnd n s
  | .flashOpenEnd n => Sys2Proof.Machine.execFlashOpenEnd n s
  | .guardEnd n => Sys2Proof.Machine.execGuardEnd n s
  | .muteWaitLimit n => Sys2Proof.Machine.execMuteWaitLimit n s
  | .replyStart => Sys2Proof.Machine.execReplyStart s
  | .attention => Sys2Proof.Machine.execAttention s
  | .softResetAction => Sys2Proof.Machine.execSoftResetAction s
  | .identify tag params => Sys2Proof.Machine.execIdentify tag params s
  | .partStatus tag params => Sys2Proof.Machine.execPartStatus tag params s
  | .partConfigRead tag => Sys2Proof.Machine.execPartConfigRead tag s
  | .partConfigWrite tag params => Sys2Proof.Machine.execPartConfigWrite tag params s
  | .lineStatus tag params => Sys2Proof.Machine.execLineStatus tag params s
  | .lineConfig tag params => Sys2Proof.Machine.execLineConfig tag params s
  | .lineReset tag params => Sys2Proof.Machine.execLineReset tag params s
  | .profileWrite tag params => Sys2Proof.Machine.execProfileWrite tag params s
  | .profileRead tag params => Sys2Proof.Machine.execProfileRead tag params s
  | .cursorSet tag params => Sys2Proof.Machine.execCursorSet tag params s
  | .tableWrite tag params => Sys2Proof.Machine.execTableWrite tag params s
  | .tableRead tag params => Sys2Proof.Machine.execTableRead tag params s
  | .tableCompare tag params => Sys2Proof.Machine.execTableCompare tag params s
  | .tableClear tag params => Sys2Proof.Machine.execTableClear tag params s
  | .tableClearcheck tag params => Sys2Proof.Machine.execTableClearcheck tag params s
  | .setSwap tag params => Sys2Proof.Machine.execSetSwap tag params s
  | .setLock tag params => Sys2Proof.Machine.execSetLock tag params s
  | .setErase tag params => Sys2Proof.Machine.execSetErase tag params s
  | .toneInsert tag params => Sys2Proof.Machine.execToneInsert tag params s
  | .emitHold tag params => Sys2Proof.Machine.execEmitHold tag params s
  | .emitResume tag params => Sys2Proof.Machine.execEmitResume tag params s
  | .captureRead tag params => Sys2Proof.Machine.execCaptureRead tag params s
  | .qualityRead tag params => Sys2Proof.Machine.execQualityRead tag params s
  | .softReset tag params => Sys2Proof.Machine.execSoftReset tag params s
  | .unknownRequest kind tag params => Sys2Proof.Machine.execUnknownRequest kind tag params s

end Sys2Proof.Machine
end

