-- ==== Sys2Proof/Safety.lean ====
section
/-! DEFINITION. What counts as a safe outcome of a step, and the properties of states that the rules keep at all times. -/

namespace Sys2Proof.Machine

/-- The outcome is a next state: neither a fault nor a refusal. -/
def Completes (o : Host.Outcome State Fault Refusal) : Prop := ∃ t, o = .next t

/-- Every command in the queue is well formed. -/
def State.queueWellFormed (s : State) : Prop := ∀ c ∈ s.pending, c.wf = true

/-- The line whose event a command takes by itself. -/
def eventLine : Instr → Option LineId
  | .loopTransition n | .faultStateChange n | .seizeExpiry n | .digitEndExpiry n | .qualityWindowEnd n _
  | .dialIdleExpiry n | .clearExpiry n | .firstWaitEnd n | .emitterTakeItem n | .burstEnd n | .gapEnd n
  | .flashOpenEnd n | .guardEnd n | .muteWaitLimit n => some n
  | _ => none

/-- R45, R23, R27: outside CONVERT the decoder is held in IDLE; a pending mode is CONVERT or PASS, differs from the mode, and is
absent on a PARKED line. -/
def State.modesLawful (s : State) : Prop :=
  ∀ n, ((s.line n).config.mode ≠ .convert → (s.line n).decoder = .idle) ∧
    ∀ m, (s.line n).config.pendingMode = some m →
      m ≠ .parked ∧ m ≠ (s.line n).config.mode ∧ (s.line n).config.mode ≠ .parked

/-- R119, R123: a line with no open call has an empty queue and slot, HOLD and FIRST_WAIT clear, and its emitter in QUIET. -/
def State.emissionsLawful (s : State) : Prop := ∀ n, s.callOf n = none → (s.line n).emission = Emission.idle

/-- The open calls bound to a translation page. -/
def State.callsOnTrans (s : State) (p : TransPage) : Nat := allLines.countP fun n => (s.callOf n).any fun c => c.transPage = p

/-- The open calls bound to a code page. -/
def State.callsOnCode (s : State) (p : CodePage) : Nat := allLines.countP fun n => (s.callOf n).any fun c => c.codePage = some p

/-- R86, R101: the bound count of every page equals the number of open call records bound to it. -/
def State.bindingsLawful (s : State) : Prop :=
  (∀ k g, (s.xlat.get k).bound g = s.callsOnTrans ⟨k, g⟩) ∧ ∀ k g, (s.code.get k).bound g = s.callsOnCode ⟨k, g⟩

/-- R17: every field of a profile lies in its range. -/
def Profile.inRange (p : Profile) : Prop :=
  (1 ≤ p.openProt ∧ p.openProt ≤ 64) ∧ (1 ≤ p.closeProt ∧ p.closeProt ≤ 64) ∧ (10 ≤ p.seizeMin ∧ p.seizeMin ≤ 500) ∧
  (10 ≤ p.pulseMin ∧ p.pulseMin ≤ 100) ∧ (40 ≤ p.pulseMax ∧ p.pulseMax ≤ 200) ∧
  (50 ≤ p.flashMin ∧ p.flashMin ≤ 1000) ∧ (100 ≤ p.flashMax ∧ p.flashMax ≤ 2000) ∧
  (40 ≤ p.endFirst ∧ p.endFirst ≤ 1000) ∧ (30 ≤ p.endMin ∧ p.endMin ≤ 500) ∧ (60 ≤ p.endMax ∧ p.endMax ≤ 1000) ∧
  (8 ≤ p.endMult ∧ p.endMult ≤ 64) ∧ (20 ≤ p.ratioMin ∧ p.ratioMin ≤ 80) ∧ (30 ≤ p.ratioMax ∧ p.ratioMax ≤ 90) ∧
  (40 ≤ p.speedMin ∧ p.speedMin ≤ 200) ∧ (50 ≤ p.speedMax ∧ p.speedMax ≤ 250) ∧
  (1000 ≤ p.dialIdle ∧ p.dialIdle ≤ 30000) ∧ (30 ≤ p.toneOn ∧ p.toneOn ≤ 200) ∧ (30 ≤ p.toneGap ∧ p.toneGap ≤ 200) ∧
  (50 ≤ p.flashOpen ∧ p.flashOpen ≤ 1000) ∧ (50 ≤ p.flashGuard ∧ p.flashGuard ≤ 2000) ∧ p.firstDelay ≤ 3000

/-- R31: every field of the part configuration lies in its range. -/
def PartConfig.inRange (c : PartConfig) : Prop :=
  (1 ≤ c.fwdProt ∧ c.fwdProt ≤ 15) ∧ (1 ≤ c.backProt ∧ c.backProt ≤ 15) ∧ (100 ≤ c.lossHold ∧ c.lossHold ≤ 5000) ∧
  (c.qualWindow = 100 ∨ c.qualWindow = 1000) ∧ (1 ≤ c.qualLimit ∧ c.qualLimit ≤ 100) ∧ (1 ≤ c.rejLimit ∧ c.rejLimit ≤ 255)

/-- R17, R19, R31: every profile keeps its ranges and the relations of R19, and the part configuration its ranges. -/
def State.configurationLawful (s : State) : Prop :=
  (∀ k, (s.profiles.get k).inRange ∧ (s.profiles.get k).ordered = true) ∧ s.part.inRange

/-- R4: SD paces the frame clock exactly while the SD alignment machine is up; R3: while it is not up there is no SD frame to carry. -/
def State.clockLawful (s : State) : Prop := (s.clock = .sd ↔ s.sd.up = true) ∧ (s.sd.up = false → s.paced = [])

/-- R10, R11, R69: while LU is not up no LU frame waits to be carried, so line time stands still. -/
def State.lineTimeLawful (s : State) : Prop := s.lu.up = false → s.waiting = none

/-- R117, R164, R165: at most 16 items wait on any line, and at most 4 replies. -/
def State.queuesBounded (s : State) : Prop := (∀ n, (s.line n).emission.queue.length ≤ 16) ∧ s.replies.length ≤ 4

/-- R164, R165: the request slot is empty and the reply queue has room, so that an offered request is executed at once. -/
def State.ready (s : State) : Prop := s.slot = none ∧ s.replies.length < 4

/-- The state with one more reply at the tail of the reply queue. -/
def State.replied (s : State) (tag kind : Byte) (answer : Answer) : State :=
  { s with replies := s.replies ++ [⟨tag, kind, answer, false⟩] }

/-- The state with an acknowledgement that carries no flag. -/
def State.acked (s : State) (tag kind : Byte) (r : Result) : State := s.replied tag kind (.ack false false r)

/-- The state with a refusal. -/
def State.refusedBy (s : State) (tag kind : Byte) (c : RefusalCode) : State := s.replied tag kind (.refuse c)

/-- The filter after the contrary sample that confirms a transition (R34). -/
def Filter.turned (f : Filter) : Filter := { f with loop := f.loop.other, age := f.run + 1, run := 0 }

/-- The duration that the transition reports: A − r, after both have grown (R34). -/
def Filter.endedLength (f : Filter) : Nat := min 65535 (f.age + 1) - (f.run + 1)

/-- One more contrary sample confirms a transition on the line (R34). -/
def State.confirms (s : State) (n : LineId) : Prop :=
  (s.line n).filter.protection (s.profileOf n) ≤ (s.line n).filter.run + 1

/-- R76, R80: a digit or a discard that goes on has not filled the threshold in force, and neither has the make before a break in it. -/
def Line.withinThreshold (l : Line) : Prop :=
  ∀ p c threshold, p ≠ .offhook → c.threshold = some threshold →
    (l.decoder = .inCall (.closed p) c → c.makeAcc + l.filter.measured < threshold) ∧
    (l.decoder = .inCall (.opened p) c → c.makeAcc < threshold)

/-- Two sets hold the same entries, roles and lock. -/
def PagedSet.sameButBound {α : Type} {size : Nat} (p q : PagedSet α size) : Prop :=
  q.pageA = p.pageA ∧ q.pageB = p.pageB ∧ q.active = p.active ∧ q.locked = p.locked

/-- A code entry that a page can hold (R100): the cleared value, or a live entry of 1 to 6 code symbols, an action, and a replacement
of up to 8 symbols. -/
def CodeEntry.valid (e : CodeEntry) : Prop :=
  e = CodeEntry.cleared ∨ e.isEnd = false ∧ (1 ≤ e.code.length ∧ e.code.length ≤ 6) ∧ e.action.isSome = true ∧ e.replacement.length ≤ 8

/-- R28: the line configuration after a PENDING_MODE, if there is one, has been taken. -/
def LineConfig.taken (c : LineConfig) : LineConfig := { c with mode := c.pendingMode.getD c.mode, pendingMode := none }

/-- R90, R92, R104, R133, R174: the parameters carry these entries for a table, as its kind takes them; `clamped` says whether a field of
a tone entry was clamped. -/
def TableRef.carries (table : TableRef) (params : List Byte) (entries : List Entry) (clamped : Bool) : Prop :=
  match table with
  | .trans _ => ∃ vs : List TransValue, (1 ≤ vs.length ∧ vs.length ≤ 20) ∧ params = vs.map TransValue.code ∧
      entries = vs.map Entry.trans ∧ clamped = false
  | .code _ => ∃ (bss : List (List Byte)) (es : List CodeEntry), (1 ≤ bss.length ∧ bss.length ≤ 6) ∧ (∀ bs ∈ bss, bs.length = 9) ∧
      params = bss.flatten ∧ bss.map codeEntryOf = es.map some ∧ entries = es.map Entry.code ∧ clamped = false
  | .tone => ∃ bss : List (List Byte), (1 ≤ bss.length ∧ bss.length ≤ 7) ∧ (∀ bs ∈ bss, bs.length = 8) ∧ params = bss.flatten ∧
      entries = bss.map (fun bs => Entry.tone (toneEntryOf bs).clamped) ∧
      clamped = decide (∃ bs ∈ bss, (toneEntryOf bs).clamped ≠ toneEntryOf bs)

/-- R89 check 4, R100, R174: the parameters carry a fitting number of entries, of which at least one is no value of the table's kind. -/
def TableRef.carriesNoValue (table : TableRef) (params : List Byte) : Prop :=
  match table with
  | .trans _ => (1 ≤ params.length ∧ params.length ≤ 20) ∧ ∃ b ∈ params, 0x12 < b.toNat
  | .code _ => ∃ bss : List (List Byte), (1 ≤ bss.length ∧ bss.length ≤ 6) ∧ (∀ bs ∈ bss, bs.length = 9) ∧ params = bss.flatten ∧
      ∃ bs ∈ bss, codeEntryOf bs = none
  | .tone => False

/-- R122: a line whose inserted symbol's gap, with notify set, ends in the output frame that takes `s` to `t`, the call being cleared in
that frame. -/
def State.gapMeetsClear (s t : State) (n : LineId) : Prop :=
  (s.line n).emission.insertDue = true ∧ (s.callOf n).isSome = true ∧ t.callOf n = none

end Sys2Proof.Machine
end

