-- ==== Sys2Proof/Certificates/Slice0/Obligations.lean ====
section
/-! DEFINITION. The statements for the provers. -/

open Sys2Proof Sys2Proof.Machine

/-! ## Steps, commands and reset -/

/-- A step takes the command at the front of the queue and runs it on the state with the rest; on an empty queue the block idles
(the model's choice, log entry 2). -/
def Obligations.StepTakesTheFrontCommand : Prop :=
  (∀ (c : Instr) (rest : List Instr) (s : State), step { s with pending := c :: rest } = exec c { s with pending := rest }) ∧
  ∀ s : State, s.pending = [] → step s = .next s

/-- Every well-formed command runs in every state; that an ill-formed term stops, and is the only stop, is the model's choice (log
entry 20). The second clause, that no command, POWER_ON_RESET included, changes the commands that wait behind it, is the model's choice
(log entry 2): the queue is the model's own and stands for the outside world. -/
def Obligations.WellFormedCommandsComplete : Prop :=
  (∀ c s, (c.wf = true → ∃ t, exec c s = .next t) ∧ (c.wf = false → exec c s = .fault .illFormed)) ∧
  (∀ c s t, exec c s = .next t → t.pending = s.pending)

/-- R16: the reset pin brings every block to its power-on state, and the port state is that of the table. That the commands that
wait stay, and the model's own count goes on, is the model's choice (log entries 2 and 8). R23, R44, R71, R115, R138, R149,
R150, R155, R173: a line and the Management Channel after power-on reset. -/
def Obligations.PowerOnResetRestoresTheParts : Prop :=
  ((∀ s : State, exec .powerOnReset s = .next { State.reset with pending := s.pending, raceCount := s.raceCount }) ∧
   State.reset.lu.state = .hunt ∧ State.reset.sd.state = .hunt ∧ State.reset.lu.misses = 0 ∧ State.reset.sd.misses = 0 ∧
   State.reset.clock = .freeRunning ∧ State.reset.lossHold = none ∧ State.reset.waiting = none ∧
   ∀ n, State.reset.lastVoice.get n = 0) ∧
  ((∀ n, (State.reset.line n).config = ⟨.convert, none, 0, 0x1FF, false, none, .resetOnRead⟩ ∧
     (State.reset.line n).filter = ⟨.opened, 0, 0, false, 0⟩ ∧ (State.reset.line n).decoder = .idle ∧
     (State.reset.line n).emission = ⟨.quiet, [], none, false, none⟩ ∧ (State.reset.line n).voice.mute = .muted ∧
     (State.reset.line n).quality = ⟨⟨0, 0, 0, 0, 0, 0, 0, 0⟩, none, none⟩ ∧ (State.reset.line n).capture = none ∧
     (State.reset.line n).events = 0 ∧ (State.reset.line n).rejectReason = none) ∧
   State.reset.partEvents = 0 ∧ State.reset.checkFailures = 0 ∧ State.reset.discardedRequests = 0 ∧
   State.reset.attention = false ∧ State.reset.receiver = .seek ∧ State.reset.slot = none ∧ State.reset.replies = [] ∧
   State.reset.tx = none ∧ State.reset.lastSent = .notice ∧ State.reset.softReset = false ∧
   State.reset.cursor = ⟨.trans 0, .a, 0, false⟩)

/-- R17, R31, R85, R101, R132: the power-on contents of the profiles, the part configuration and the tables. -/
def Obligations.PowerOnTables : Prop :=
  (∀ k, State.reset.profiles.get k =
    ⟨16, 24, 60, 30, 120, 180, 600, 150, 60, 400, 24, false, 50, 75, 70, 140, 8000, 0, none, 70, 70, 250, 300, 300⟩) ∧ State.reset.part = ⟨4, 3, 1000, 100, 20, 5, 0x3F⟩ ∧
  (∀ k, (State.reset.xlat.get k).active = .a ∧ (State.reset.xlat.get k).locked = false ∧
    (State.reset.xlat.get k).boundA = 0 ∧ (State.reset.xlat.get k).boundB = 0) ∧
  (∀ j : Fin 20, (State.reset.xlat.get 0).pageA.get j =
    if j.val < 9 then .symbol (Fin.ofNat 16 (j.val + 1)) else if j.val = 9 then .symbol 0 else .reject) ∧
  (∀ j, (State.reset.xlat.get 0).pageB.get j = .reject) ∧
  (∀ k, k ≠ 0 → ∀ j, (State.reset.xlat.get k).pageA.get j = .reject ∧ (State.reset.xlat.get k).pageB.get j = .reject) ∧
  (∀ k, (State.reset.code.get k).active = .a ∧ (State.reset.code.get k).locked = false ∧
    (State.reset.code.get k).boundA = 0 ∧ (State.reset.code.get k).boundB = 0) ∧
  (∀ k j, (State.reset.code.get k).pageA.get j = ⟨true, [], none, false, []⟩ ∧
    (State.reset.code.get k).pageB.get j = ⟨true, [], none, false, []⟩) ∧
  State.reset.tones.toList = [(941, 1336), (697, 1209), (697, 1336), (697, 1477), (770, 1209), (770, 1336), (770, 1477), (852, 1209),
    (852, 1336), (852, 1477), (941, 1209), (941, 1477), (697, 1633), (770, 1633), (852, 1633), (941, 1633)].map
      fun f => ⟨f.1, f.2, 1000, 1260⟩

/-! ## What every step keeps -/

/-- The laws of the next four statements hold after power-on reset. -/
def Obligations.LawsHoldAtReset : Prop :=
  State.reset.modesLawful ∧ State.reset.emissionsLawful ∧ State.reset.bindingsLawful ∧ State.reset.configurationLawful ∧
  State.reset.clockLawful ∧ State.reset.lineTimeLawful ∧ State.reset.queuesBounded

/-- R45, R27, R28: outside CONVERT the decoder is held in IDLE, and a pending mode is one that waits. -/
def Obligations.ModesStayLawful : Prop := ∀ s t, s.modesLawful → step s = .next t → t.modesLawful

/-- R119: queue, slot, HOLD, FIRST_WAIT and emitter are idle whenever the line has no open call. -/
def Obligations.EmissionsStayLawful : Prop :=
  ∀ s t, s.modesLawful → s.emissionsLawful → step s = .next t → t.emissionsLawful

/-- R86, R101: the bound count of every page equals the number of open calls bound to it. -/
def Obligations.BoundCountsStayExact : Prop :=
  ∀ s t, s.modesLawful → s.bindingsLawful → step s = .next t → t.bindingsLawful

/-- R17, R19, R31: every profile keeps its ranges and relations, and the part configuration its ranges. R4: SD paces the frame clock
exactly while the SD machine is up; R3: while it is not up no SD frame waits to be carried, which for one delivered just before a loss is
the model's reading (log entry 6). R10, R11, R69: while LU is not up no LU frame waits to be carried. R117, R165: at most 16 items wait on
a line and at most 4 replies in the reply queue. -/
def Obligations.RegistersStayInRange : Prop :=
  (∀ s t, s.configurationLawful → step s = .next t → t.configurationLawful) ∧
  (∀ s t, s.clockLawful → step s = .next t → t.clockLawful) ∧
  (∀ s t, s.lineTimeLawful → step s = .next t → t.lineTimeLawful) ∧
  (∀ s t, s.queuesBounded → step s = .next t → t.queuesBounded)

/-! ## Frames -/

/-- An event of one line changes only that line, the bound counts of the sets and the attention-wanted flag, which it never clears. -/
def Obligations.LineEventsChangeOneLine : Prop :=
  ∀ c n s t, eventLine c = some n → exec c s = .next t →
    t = { s with lines := t.lines, xlat := t.xlat, code := t.code, attention := t.attention } ∧
    (∀ m, m ≠ n → t.line m = s.line m) ∧ (∀ k, (s.xlat.get k).sameButBound (t.xlat.get k)) ∧
    (∀ k, (s.code.get k).sameButBound (t.code.get k)) ∧ (s.attention = true → t.attention = true)

/-- R16, R173: no request changes the ports, the output frames, the receiver, the transmitter or the waiting replies. -/
def Obligations.RequestsLeaveThePorts : Prop :=
  ∀ (r : Request) (s t : State), (answerRequest r s).state = t →
    t.lu = s.lu ∧ t.sd = s.sd ∧ t.clock = s.clock ∧ t.lossHold = s.lossHold ∧ t.waiting = s.waiting ∧ t.paced = s.paced ∧
    t.lastVoice = s.lastVoice ∧ t.su = s.su ∧ t.ld = s.ld ∧ t.receiver = s.receiver ∧ t.slot = s.slot ∧
    t.replies = s.replies ∧ t.tx = s.tx ∧ t.lastSent = s.lastSent ∧ t.raceCount = s.raceCount ∧ t.pending = s.pending

/-- R88: a page whose bound count is not zero keeps its entries through every request. -/
def Obligations.BoundPagesKeepTheirEntries : Prop :=
  ∀ (r : Request) (s : State),
    (∀ k g, 0 < (s.xlat.get k).bound g →
      ((answerRequest r s).state.xlat.get k).entries g = (s.xlat.get k).entries g) ∧
    ∀ k g, 0 < (s.code.get k).bound g → ((answerRequest r s).state.code.get k).entries g = (s.code.get k).entries g

/-! ## Alignment -/

/-- R5: outside HUNT nothing is searched. In HUNT each bit moves the 16-bit window on, the bits one after another, and the first full
window equal to the marker is the start of a frame: CONFIRM with a count of 1, nothing after it examined. So with nothing examined yet a
list of bits ends in CONFIRM exactly when the marker's 16 bits stand somewhere in it. That the bits after the window are left to the frame
found is the model's reading, and that those beyond that frame, where the next marker is expected, are not checked is the model's choice
(log entry 5). -/
def Obligations.HuntFindsTheMarker : Prop :=
  (∀ d s, ((s.aligner d).state ≠ .hunt → ∀ bits, exec (.huntMarkerFound d bits) s = .next s) ∧
    ((s.aligner d).state = .hunt → (s.aligner d).seen < 15 → ∀ b,
      exec (.huntMarkerFound d [b]) s = .next (s.setAligner d
        { s.aligner d with
          window := ((s.aligner d).window <<< 1) ||| (if b then 1 else 0)
          seen := (s.aligner d).seen + 1 })) ∧
    ((s.aligner d).state = .hunt → 15 ≤ (s.aligner d).seen → ∀ b,
      exec (.huntMarkerFound d [b]) s = .next (s.setAligner d
        (if ((s.aligner d).window <<< 1) ||| (if b then 1 else 0) = 0x6B2D then ⟨.confirm, 1, 0, 0, 0⟩
          else { s.aligner d with window := ((s.aligner d).window <<< 1) ||| (if b then 1 else 0), seen := 16 })))) ∧
  (∀ d s t b bits, exec (.huntMarkerFound d [b]) s = .next t →
    exec (.huntMarkerFound d (b :: bits)) s = exec (.huntMarkerFound d bits) t) ∧
  ∀ d s bits, (s.aligner d).state = .hunt → (s.aligner d).seen = 0 →
    (slotBits 0x6B2D <:+: bits → exec (.huntMarkerFound d bits) s = .next (s.setAligner d ⟨.confirm, 1, 0, 0, 0⟩)) ∧
    (¬ slotBits 0x6B2D <:+: bits → ∃ w, exec (.huntMarkerFound d bits) s = .next (s.setAligner d
      { s.aligner d with window := w, seen := min 16 bits.length }))

/-- R6: a hit in CONFIRM below BACK_PROT increments the count and delivers nothing; a miss goes to HUNT, with no event, where the
search resumes with nothing examined on the 784 bits after the missed marker: R5 and R6 say only that it resumes from the point the
stream has reached, and that point, and the empty window, are the model's reading (log entry 5). R6, R9, R4, R13: the hit that brings
the count to BACK_PROT locks, raises the lock event and delivers its frame: LU cancels the loss hold and fills the waiting place, SD
takes over the clock, paces a frame and feeds the receiver. In the SD lock clause, that the frame joins a first-in first-out list of
delivered frames is the model's choice (log entry 6), and so is that its octets reach the receiver before the output frame that it paces
starts (log entry 24). -/
def Obligations.ConfirmationCountsAndLocks : Prop :=
  (∀ d slots s, (s.aligner d).state = .confirm →
     (slots.get 0 = 0x6B2D → (s.aligner d).confirmCount + 1 < s.part.backProt →
       exec (.markerCheck d slots) s = .next (s.setAligner d ⟨.confirm, (s.aligner d).confirmCount + 1, 0, 0, 0⟩)) ∧
     (slots.get 0 ≠ 0x6B2D → exec (.markerCheck d slots) s = .next
       (s.setAligner d (Aligner.hunt ⟨.hunt, 0, 0, 0, 0⟩ (slotsBits (slots.toList.drop 1)))))) ∧
  (∀ slots s, slots.get 0 = 0x6B2D →
     (s.lu.state = .confirm → s.part.backProt ≤ s.lu.confirmCount + 1 →
       exec (.alignmentLock .lu slots) s = .next
         { (latchPart .luLock s) with lu := ⟨.locked, 0, 0, 0, 0⟩, lossHold := none, waiting := some (Frame.ofSlots slots).channels } ∧
       exec (.markerCheck .lu slots) s = exec (.alignmentLock .lu slots) s) ∧
     (s.sd.state = .confirm → s.part.backProt ≤ s.sd.confirmCount + 1 →
       exec (.alignmentLock .sd slots) s = .next
         (receiveOctet (Frame.ofSlots slots).mgmtLow (receiveOctet (Frame.ofSlots slots).mgmtHigh
           { (latchPart .sdLock s) with sd := ⟨.locked, 0, 0, 0, 0⟩, clock := .sd, paced := s.paced ++ [(Frame.ofSlots slots).channels] })) ∧
       exec (.markerCheck .sd slots) s = exec (.alignmentLock .sd slots) s))

/-- R7, R10: while LU is up, a hit returns to LOCKED and a miss below FWD_PROT goes to FLYWHEEL with one more miss; either way
the frame takes the waiting place, and an older one is dropped. R7, R12: while SD is up, the frame of a hit or of a miss below
FWD_PROT paces one output frame, and its two management octets reach the receiver, the high octet first. In both SD clauses, that the
frame joins a first-in first-out list of delivered frames is the model's choice (log entry 6), and so is that its octets reach the
receiver before the output frame that it paces starts (log entry 24). -/
def Obligations.FramesAreDeliveredWhileUp : Prop :=
  (∀ slots s, s.lu.up = true →
     (slots.get 0 = 0x6B2D → exec (.markerCheck .lu slots) s = .next
       { s with lu := ⟨.locked, 0, 0, 0, 0⟩, waiting := some (Frame.ofSlots slots).channels }) ∧
     (slots.get 0 ≠ 0x6B2D → s.lu.misses + 1 < s.part.fwdProt → exec (.markerCheck .lu slots) s = .next
       { s with lu := ⟨.flywheel, 0, s.lu.misses + 1, 0, 0⟩, waiting := some (Frame.ofSlots slots).channels })) ∧
  (∀ slots s, s.sd.up = true →
     (slots.get 0 = 0x6B2D → exec (.markerCheck .sd slots) s = .next
       (receiveOctet (Frame.ofSlots slots).mgmtLow (receiveOctet (Frame.ofSlots slots).mgmtHigh
         { s with sd := ⟨.locked, 0, 0, 0, 0⟩, paced := s.paced ++ [(Frame.ofSlots slots).channels] }))) ∧
     (slots.get 0 ≠ 0x6B2D → s.sd.misses + 1 < s.part.fwdProt → exec (.markerCheck .sd slots) s = .next
       (receiveOctet (Frame.ofSlots slots).mgmtLow (receiveOctet (Frame.ofSlots slots).mgmtHigh
         { s with sd := ⟨.flywheel, 0, s.sd.misses + 1, 0, 0⟩, paced := s.paced ++ [(Frame.ofSlots slots).channels] }))))

/-- R7, R9, R10, R13, R163: the miss that reaches FWD_PROT enters HUNT: LU starts the loss hold of LOSS_HOLD × 8 output frames and
discards the waiting frame, SD lets the clock run free and the receiver discard its partial message. R3: SD leaves no SD frame to carry.
ALIGNMENT_LOSS is that miss alone; the MARKER_CHECK whose miss it is then searches the 784 bits after the missed marker. That
ALIGNMENT_LOSS searches nothing is the model's choice (log entry 1); that the search begins with nothing examined on exactly those bits is
the model's reading (log entry 5); that an SD frame delivered before the loss is discarded with it is the model's reading of R3 (log entry
6). -/
def Obligations.LossStartsTheHold : Prop :=
  ∀ s, (s.lu.up = true → s.part.fwdProt ≤ s.lu.misses + 1 →
      exec (.alignmentLoss .lu) s = .next
        { (latchPart .luLoss s) with lu := ⟨.hunt, 0, 0, 0, 0⟩, lossHold := some ⟨s.part.lossHold * 8, 0⟩, waiting := none } ∧
      ∀ slots, slots.get 0 ≠ 0x6B2D → exec (.markerCheck .lu slots) s = .next
        { (latchPart .luLoss s) with
          lu := Aligner.hunt ⟨.hunt, 0, 0, 0, 0⟩ (slotsBits (slots.toList.drop 1))
          lossHold := some ⟨s.part.lossHold * 8, 0⟩
          waiting := none }) ∧
    (s.sd.up = true → s.part.fwdProt ≤ s.sd.misses + 1 →
      exec (.alignmentLoss .sd) s = .next
        { (latchPart .sdLoss s) with sd := ⟨.hunt, 0, 0, 0, 0⟩, clock := .freeRunning, paced := [], receiver := .seek } ∧
      ∀ slots, slots.get 0 ≠ 0x6B2D → exec (.markerCheck .sd slots) s = .next
        { (latchPart .sdLoss s) with
          sd := Aligner.hunt ⟨.hunt, 0, 0, 0, 0⟩ (slotsBits (slots.toList.drop 1))
          clock := .freeRunning
          paced := []
          receiver := .seek })

/-! ## Output frames -/

/-- R1, R3, R4, R10, R123, R139, R168: at a tick an output frame starts. FIRST_WAIT counts on every line, the loss hold counts, the
waiting frame is carried, every emitter takes the frame and every Voice Selector goes forward. The SU frame carries the marker, line by
line the SU sample, H and K of the state that all this leaves, and the next two management octets; LD carries the marker, the management
fill and while SD is up the channels of the SD frame that paces it, and idle channels while SD is not up; the waiting place empties, its
voice samples becoming the last carried ones. The order inside the frame is the model's reading (log entry 7); that SD frames wait in a
queue, and that no frame starts while SD paces and none waits, is the model's choice (log entry 6); which of a gap's end and a clear comes
first is a free value (log entry 8). -/
def Obligations.OutputFrameForms : Prop :=
  (∀ s u c w v : State, s.clock = .freeRunning ∨ s.paced ≠ [] →
    u = forLines countFirstWait (formLD s) → c = carry (countLossHold u) → w = lineFrames (formLD s) → v = forLines voiceFrame w →
    (∀ n, u.line n = { s.line n with emission := { (s.line n).emission with
      firstWait := (s.line n).emission.firstWait.bind fun k => if k ≤ 1 then none else some (k - 1) } }) ∧
    (∀ n, (¬ s.gapMeetsClear c n → w.line n = (emitterFrame n c).line n) ∧
      (s.gapMeetsClear c n → ∃ k, w.line n = { (emitterFrame n c).line n with
        events := ((emitterFrame n c).line n).events ||| (if Config.gapEndBeforeClear k then 0x080 else 0) })) ∧
    (∀ n, v.line n = { w.line n with
      voice := ⟨(w.line n).voice.mute.forward (w.sourcesOf n) (w.lastVoice.get n), (w.line n).hook, (w.line n).faultMark,
        w.sourcesOf n⟩ }) ∧
    ∃ x y t, exec .outputFrame s = .next t ∧ sendOctet v = (t.su.mgmtHigh, x) ∧ sendOctet x = (t.su.mgmtLow, y) ∧
      t = { y with su := t.su } ∧
      (∀ n, t.su.channels.get n = ⟨v.suSample n, (w.line n).hook, (w.line n).faultMark⟩) ∧
      (∀ n, (t.line n).voice = (v.line n).voice) ∧
      t.su.marker = 0x6B2D ∧ t.ld.marker = 0x6B2D ∧ t.ld.mgmtHigh = 0 ∧ t.ld.mgmtLow = 0 ∧
      (s.sd.up = true → ∀ cs rest, s.paced = cs :: rest → t.ld.channels = cs) ∧
      (s.sd.up = false ∨ s.paced = [] → t.ld.channels = Vector.replicate 48 ⟨0, false, false⟩) ∧
      t.paced = s.paced.tail ∧ t.waiting = none ∧
      (s.waiting = none → t.lastVoice = s.lastVoice) ∧
      (∀ cs, s.waiting = some cs → ∀ n, t.lastVoice.get n = (cs.get n).voice)) ∧
  ∀ s, s.clock = .sd → s.paced = [] → exec .outputFrame s = .next s

/-- R11, R13, R14: while no frame is carried and no loss hold completes, be it that none runs or that it is not yet due, an output frame
moves no filter and opens, clears or moves no call, whatever the transmitter sends or begins, provided it executes no request (the request
slot keeps what it holds) and does not end the reply of a SOFT-RESET. R43, R48, R69: while LU is not up no loop transition is confirmed,
no fault state changes and no timer of a decoder expires, so a command that names such a moment of a line changes nothing, nor does the
digit report that would end its quality window (read from R48 and R151, log entry 1). In every output frame a running loss hold counts
one, and the one that completes its length ends it. -/
def Obligations.LineTimeStandsStill : Prop :=
  (∀ s t, s.waiting = none → (∀ h, s.lossHold = some h → h.counted + 1 < h.length) →
    (∀ rest, s.tx = some ⟨rest, true⟩ → 2 < rest.length) → exec .outputFrame s = .next t → t.slot = s.slot →
    ∀ n, (t.line n).filter = (s.line n).filter ∧ (t.line n).decoder = (s.line n).decoder) ∧
  (∀ s, s.lu.up = false → ∀ n,
    exec (.loopTransition n) s = .next s ∧ exec (.faultStateChange n) s = .next s ∧ exec (.seizeExpiry n) s = .next s ∧
    exec (.digitEndExpiry n) s = .next s ∧ exec (.dialIdleExpiry n) s = .next s ∧ exec (.clearExpiry n) s = .next s ∧
    ∀ r, r.wf = true → exec (.qualityWindowEnd n r) s = .next s) ∧
  ∀ s, s.clock = .freeRunning ∨ s.paced ≠ [] → ∃ t, exec .outputFrame s = .next t ∧
    (s.lossHold = none → t.lossHold = none) ∧
    ∀ h, s.lossHold = some h → t.lossHold = if h.length ≤ h.counted + 1 then none else some ⟨h.length, h.counted + 1⟩

/-- R139: the SU voice sample is the tone sample in TONE, 0 while MUTED, and the last carried line voice otherwise. R144 to
R147: H in each mode, and K. -/
def Obligations.SuChannelsAreFormed : Prop :=
  (∀ (s : State) (n : LineId),
     (∀ b, (s.line n).emission.state = .tone b → s.suSample n = BitVec.ofInt 14 b.toneSample) ∧
     ((∀ b, (s.line n).emission.state ≠ .tone b) → (s.line n).voice.mute = .muted → s.suSample n = 0) ∧
     ((∀ b, (s.line n).emission.state ≠ .tone b) → (s.line n).voice.mute ≠ .muted → s.suSample n = s.lastVoice.get n)) ∧
  (∀ l : Line, l.faultMark = l.filter.fault ∧
     (l.config.mode = .convert → (l.hook = true ↔ l.decoder.call.isSome = true ∧ ∀ r g, l.emission.state ≠ .flashOut r g)) ∧
     (l.config.mode = .pass → (l.hook = true ↔ l.filter.fault = false ∧ l.filter.loop = .closed)) ∧
     (l.config.mode = .parked → l.hook = false))

/-- R140: which mute sources are present. R141: the five cases of the mute state. In an output frame the mute state of every line goes
forward exactly once, from the sources of the state that the lines' part of the frame leaves and the LU voice sample given for the frame.
In PENDING with a wait count of 7 and no immediate source, the count reaches 8 and the line is MUTED; that MUTE_WAIT_LIMIT by itself
changes only the mute state is the model's choice (log entry 1). -/
def Obligations.MuteStateGoesForward : Prop :=
  (∀ (s : State) (n : LineId),
     ((s.sourcesOf n).a = true ↔ (s.line n).config.mode = .convert ∧ ((s.line n).decoder = .seizing ∨ ∃ c,
       (∃ p, (s.line n).decoder = .inCall (.opened p) c) ∨ (s.line n).decoder = .inCall (.closed .indigit) c ∨
       (s.line n).decoder = .inCall (.closed .discard) c)) ∧
     ((s.sourcesOf n).b = true ↔ (s.line n).config.mode = .convert ∧ ((s.line n).emission.state ≠ .quiet ∨
       (s.line n).emission.queue ≠ [] ∨ (s.line n).emission.slot ≠ none)) ∧
     (s.sourcesOf n).c = (s.line n).config.lineMute ∧
     ((s.sourcesOf n).d = true ↔ (s.line n).config.mode = .convert ∧ (s.line n).decoder = .fault ∨
       (s.line n).config.mode = .pass ∧ (s.line n).filter.fault = true ∨ (s.line n).config.mode = .parked) ∧
     ((s.sourcesOf n).e = true ↔ s.lu.state = .hunt ∨ s.lu.state = .confirm)) ∧
  (∀ (m : MuteState) (x : Sources) (v : Sample),
     (x.d = true ∨ x.e = true → m.forward x v = .muted) ∧
     (x.d = false → x.e = false → x.a = true ∨ x.b = true ∨ x.c = true →
       (m = .passing → m.forward x v = if v.toInt.natAbs ≤ 64 then .muted else .pending 0) ∧
       (∀ w, m = .pending w → m.forward x v = if v.toInt.natAbs ≤ 64 ∨ 8 ≤ w + 1 then .muted else .pending (w + 1)) ∧
       (m = .muted → m.forward x v = .muted)) ∧
     (x = ⟨false, false, false, false, false⟩ → m.forward x v = .passing)) ∧
  (∀ (n : LineId) (s : State), ((voiceFrame n s).line n).voice.mute =
    (s.line n).voice.mute.forward (s.sourcesOf n) (s.lastVoice.get n)) ∧
  (∀ (s : State), s.clock = .freeRunning ∨ s.paced ≠ [] → ∃ t, exec .outputFrame s = .next t ∧
    ∀ n, (t.line n).voice.mute =
      (s.line n).voice.mute.forward ((lineFrames (formLD s)).sourcesOf n) (t.lastVoice.get n)) ∧
  ∀ (n : LineId) (s : State) (w : Nat), (s.sourcesOf n).immediate = false → (s.sourcesOf n).zeroCross = true →
    (s.line n).voice.mute = .pending w → 7 ≤ w →
    exec (.muteWaitLimit n) s = .next (s.modLine n fun l => { l with voice := { l.voice with mute := .muted } })

/-- R13, R14, R15: at the loss hold expiry every open call clears with LINK-CLEAR, every decoder but one in FAULT is in IDLE, every
filter's loop state is reset and F kept, and a line made idle takes its pending mode. R13: the output frame that completes the length of
a running hold brings the same expiry about, after FIRST_WAIT has counted and before a waiting frame is carried (the order inside the frame
is the model's reading, log entry 7), and an output frame before it counts one. With no frame waiting, no request executed and no
SOFT-RESET reply ended, every line stands after that output frame as the expiry leaves it. In the second clause, that LOSS_HOLD_EXPIRY by
itself changes nothing where the running hold is not yet due is the model's choice (log entry 1). -/
def Obligations.LossHoldExpiryActs : Prop :=
  (∀ s h, s.lossHold = some h → h.length ≤ h.counted + 1 → s.modesLawful → s.emissionsLawful →
    ∃ t, exec .lossHoldExpiry s = .next t ∧ t.lossHold = none ∧ t.part = s.part ∧ t.partEvents = s.partEvents ∧
      ∀ n, (t.line n).filter = ⟨.opened, 0, 0, (s.line n).filter.fault, 0⟩ ∧
        (t.line n).emission = Emission.idle ∧ t.callOf n = none ∧
        ((s.line n).decoder = .fault → (t.line n).decoder = .fault ∧ (t.line n).config = (s.line n).config) ∧
        ((s.line n).decoder ≠ .fault → (t.line n).config.pendingMode = none ∧
          (t.line n).config.mode = (s.line n).config.pendingMode.getD (s.line n).config.mode ∧
          (t.line n).decoder = if (s.line n).config.pendingMode = some .convert ∧ (s.line n).filter.fault = true
            then .fault else .idle) ∧
        (t.line n).events = (if (s.callOf n).isSome then (s.line n).events ||| 0x100 else (s.line n).events) ∧
        (t.line n).quality = (s.line n).quality ∧ (t.line n).capture = (s.line n).capture) ∧
  (∀ s : State, (s.lossHold = none → countLossHold s = s) ∧
    ∀ h, s.lossHold = some h →
      (h.length ≤ h.counted + 1 → exec .lossHoldExpiry s = .next (countLossHold s)) ∧
      (h.counted + 1 < h.length → countLossHold s = { s with lossHold := some ⟨h.length, h.counted + 1⟩ } ∧
        exec .lossHoldExpiry s = .next s)) ∧
  (∀ s u : State, s.clock = .freeRunning ∨ s.paced ≠ [] → u = forLines countFirstWait (formLD s) →
    exec .outputFrame s = .next (formSU (forLines emitterFrame (forLines (settleRace (formLD s)) (carry (countLossHold u)))))) ∧
  ∀ s t h, s.clock = .freeRunning ∨ s.paced ≠ [] → s.waiting = none → s.lossHold = some h → h.length ≤ h.counted + 1 →
    (∀ rest, s.tx = some ⟨rest, true⟩ → 2 < rest.length) → s.modesLawful → s.emissionsLawful →
    exec .outputFrame s = .next t → t.slot = s.slot →
    t.lossHold = none ∧ ∀ n,
      (t.line n).filter = ⟨.opened, 0, 0, (s.line n).filter.fault, 0⟩ ∧
      (t.line n).emission = Emission.idle ∧ t.callOf n = none ∧
      ((s.line n).decoder = .fault → (t.line n).decoder = .fault ∧ (t.line n).config = (s.line n).config) ∧
      ((s.line n).decoder ≠ .fault → (t.line n).config.pendingMode = none ∧
        (t.line n).config.mode = (s.line n).config.pendingMode.getD (s.line n).config.mode ∧
        (t.line n).decoder = if (s.line n).config.pendingMode = some .convert ∧ (s.line n).filter.fault = true
          then .fault else .idle) ∧
      ((s.callOf n).isSome = true → (t.line n).events &&& 0x100 ≠ 0) ∧
      (t.line n).quality = (s.line n).quality ∧ (t.line n).capture = (s.line n).capture

/-! ## The Loop Filter and the decoder -/

/-- R10, R33, R41: a carried frame is one sample arrival for every line, its A bit the L sample and its B bit the G sample, each line taking
it as if the others had not; the waiting place empties; with no frame waiting no line receives anything. -/
def Obligations.CarriedSamplesReachEveryFilter : Prop :=
  (∀ (s : State) (cs : Channels), s.waiting = some cs → (carry s).waiting = none ∧
    ∀ n, ((carry s).line n).filter =
      ((((s.line n).filter.takeLoop (s.profileOf n) (cs.get n).a).1).takeFault (cs.get n).b).1) ∧
  (∀ (s : State) (cs : Channels), s.waiting = some cs →
    ∀ n, (carry s).line n = (arrival n (cs.get n).a (cs.get n).b s).line n) ∧
  ∀ s : State, s.waiting = none → carry s = s

/-- R34, R35, R36, R38, R39: an agreeing sample lengthens the state and aborts a run; a contrary sample extends the run, and at
the protection count confirms the transition with D = A − r, leaving the run's length as the age of the new state. R40: sixteen
consecutive contrary fault samples change F, and fewer change nothing but the run. -/
def Obligations.SamplesAreFiltered : Prop :=
  (∀ (f : Filter) (p : Profile) (l : Bool),
     (LoopState.ofSample l = f.loop →
       f.takeLoop p l = ({ f with age := min 65535 (f.age + 1), run := 0 }, if f.run = 0 then .nothing else .aborted)) ∧
     (LoopState.ofSample l ≠ f.loop → f.run + 1 < (if f.loop = .closed then p.openProt else p.closeProt) →
       f.takeLoop p l = ({ f with age := min 65535 (f.age + 1), run := f.run + 1 }, .nothing)) ∧
     (LoopState.ofSample l ≠ f.loop → (if f.loop = .closed then p.openProt else p.closeProt) ≤ f.run + 1 →
       f.takeLoop p l = ({ f with loop := LoopState.ofSample l, age := f.run + 1, run := 0 },
         .confirmed (LoopState.ofSample l) (min 65535 (f.age + 1) - (f.run + 1))))) ∧
  (∀ (f : Filter) (g : Bool),
     (g = f.fault → f.takeFault g = ({ f with faultRun := 0 }, none)) ∧
     (g ≠ f.fault → f.faultRun + 1 < 16 → f.takeFault g = ({ f with faultRun := f.faultRun + 1 }, none)) ∧
     (g ≠ f.fault → 16 ≤ f.faultRun + 1 → f.takeFault g = ({ f with fault := g, faultRun := 0 }, some g)))

/-- While LU is up (LineTimeStandsStill: nothing moves while it is not), LOOP_TRANSITION where the transition is confirmed is that
arrival, its G sample F: R42, R45, R28: on a PASS or PARKED line a confirmed transition moves the filter only; one to OPEN on a PASS line
lets a pending CONVERT be taken, with the decoder in FAULT if F is 1. R49, R68: in CONVERT a confirmed close takes IDLE to SEIZING, and
steps 2 and 3 of R47 follow; a confirmed open in SEIZING is a false seizure, counted, and returns to IDLE; a confirmed open in IDLE moves
the filter only; one in FAULT with F at 0 leaves FAULT for IDLE, and any other transition in FAULT moves the filter only. A return to IDLE
takes a pending PASS. R40: the G sample that agrees with F sets the fault run to 0. That the row's G sample is F is the model's choice
(log entry 1). -/
def Obligations.TransitionsOutsideCalls : Prop :=
  (∀ (n : LineId) (s : State), s.lu.up = true → s.modesLawful → s.confirms n →
     ((s.line n).config.mode = .parked ∨
         (s.line n).config.mode = .pass ∧ ((s.line n).filter.loop = .opened ∨ (s.line n).config.pendingMode = none) →
       exec (.loopTransition n) s = .next (s.setFilter n { (s.line n).filter.turned with faultRun := 0 })) ∧
     ((s.line n).config.mode = .pass → (s.line n).filter.loop = .closed → (s.line n).config.pendingMode = some .convert →
       exec (.loopTransition n) s = .next (s.modLine n fun l =>
         { l with
           filter := { l.filter.turned with faultRun := 0 }
           config := { l.config with mode := .convert, pendingMode := none }
           decoder := if l.filter.fault then .fault else .idle }))) ∧
  (∀ (n : LineId) (s : State), s.lu.up = true → s.confirms n → (s.line n).config.mode = .convert →
     ((s.line n).decoder = .idle → (s.line n).filter.loop = .opened → exec (.loopTransition n) s = .next
       (faultSample n (s.line n).filter.fault (laterSteps n
         ⟨s.modLine n fun l => { l with filter := l.filter.turned, decoder := .seizing }, false⟩))) ∧
     ((s.line n).decoder = .idle → (s.line n).filter.loop = .closed → exec (.loopTransition n) s = .next
       (s.modLine n fun l => { l with filter := { l.filter.turned with faultRun := 0 } })) ∧
     ((s.line n).decoder = .seizing → (s.line n).filter.loop = .closed → (s.line n).config.pendingMode ≠ some .convert →
       exec (.loopTransition n) s = .next (s.modLine n fun l =>
         { l with
           filter := { l.filter.turned with faultRun := 0 }
           config := l.config.taken
           decoder := .idle
           quality := { l.quality with
             current := { l.quality.current with falseSeizures := min 65535 (l.quality.current.falseSeizures + 1) } } })) ∧
     ((s.line n).decoder = .fault → (s.line n).filter.loop = .closed → (s.line n).filter.fault = false →
       exec (.loopTransition n) s = .next (s.modLine n fun l =>
         { l with filter := { l.filter.turned with faultRun := 0 }, config := l.config.taken, decoder := .idle })) ∧
     ((s.line n).decoder = .fault → (s.line n).filter.loop = .opened ∨ (s.line n).filter.fault = true →
       exec (.loopTransition n) s = .next (s.modLine n fun l => { l with filter := { l.filter.turned with faultRun := 0 } })))

/-- While LU is up, LOOP_TRANSITION where the transition is confirmed is that arrival, its G sample F (the model's choice, log entry 1):
R52, R72: a confirmed open in OFFHOOK, INDIGIT or DISCARD enters OPEN with that state as open-from; from INDIGIT and DISCARD the closed
length D joins the make accumulator, saturating; steps 2 and 3 of R47 follow. R53, R54: a break shorter than PULSE_MIN is a glitch: counted,
its length added to the make accumulator, and the decoder is back in the state the break began from with the rest of the digit unchanged.
R47, R54, R76: at the same arrival the accumulator plus the measured closed length is compared with the threshold in force: if it has
reached it, the digit completes, or the DISCARD ends; otherwise the digit goes on. R58: an indeterminate break returns to OFFHOOK: from
INDIGIT the digit is rejected MALFORMED and reported, from OFFHOOK a glitch is counted, from DISCARD nothing more happens. Where no digit
completes the dial-idle count takes the arrival (R63). -/
def Obligations.BreaksThatBeginOrCountNoPulse : Prop :=
  (∀ (n : LineId) (s : State) (from_ : DigitPhase) (c : Call), s.lu.up = true → s.confirms n → (s.line n).config.mode = .convert →
     (s.line n).filter.loop = .closed → (s.line n).decoder = .inCall (.closed from_) c →
     exec (.loopTransition n) s = .next (faultSample n (s.line n).filter.fault (laterSteps n ⟨s.modLine n fun l =>
       { l with
         filter := l.filter.turned
         decoder := .inCall (.opened from_)
           (if from_ = .offhook then c
             else { c with makeAcc := min 65535 (c.makeAcc + l.filter.endedLength) }) }, false⟩))) ∧
  (∀ (n : LineId) (s u : State) (from_ : DigitPhase) (c d : Call), s.lu.up = true → s.confirms n → (s.line n).config.mode = .convert →
     (s.line n).filter.loop = .opened → (s.line n).decoder = .inCall (.opened from_) c →
     (s.line n).filter.endedLength < (s.profileOf n).pulseMin * 8 →
     d = { c with makeAcc := min 65535 (c.makeAcc + (s.line n).filter.endedLength) } →
     u = (s.modLine n fun l =>
       { l with
         filter := l.filter.turned
         decoder := .inCall (.closed from_) d
         quality := { l.quality with current := { l.quality.current with glitches := min 65535 (l.quality.current.glitches + 1) } } }) →
     (from_ = .offhook ∨ c.threshold = none →
       exec (.loopTransition n) s = .next (faultSample n (s.line n).filter.fault (takeDialIdle n u))) ∧
     ∀ threshold, c.threshold = some threshold →
       (d.makeAcc + ((s.line n).filter.run + 1) < threshold →
         exec (.loopTransition n) s = .next (faultSample n (s.line n).filter.fault (takeDialIdle n u))) ∧
       (threshold ≤ d.makeAcc + ((s.line n).filter.run + 1) →
         (from_ = .indigit →
           exec (.loopTransition n) s = .next (faultSample n (s.line n).filter.fault (completeDigit n d u))) ∧
         (from_ = .discard → exec (.loopTransition n) s = .next
           (faultSample n (s.line n).filter.fault (takeDialIdle n (u.setDecoder n (.inCall (.closed .offhook) d))))))) ∧
  (∀ (n : LineId) (s : State) (from_ : DigitPhase) (c : Call), s.lu.up = true → s.confirms n → (s.line n).config.mode = .convert →
     (s.line n).filter.loop = .opened → (s.line n).decoder = .inCall (.opened from_) c →
     (s.profileOf n).pulseMin * 8 ≤ (s.line n).filter.endedLength → (s.profileOf n).pulseMax * 8 < (s.line n).filter.endedLength →
     (s.line n).filter.endedLength < (s.profileOf n).flashMin * 8 →
     exec (.loopTransition n) s = .next (faultSample n (s.line n).filter.fault (takeDialIdle n
       (match from_ with
         | .indigit => reportDigit n ⟨c.pulses, c.distorted, true, false, none⟩ (latchReject n .malformed (s.modLine n fun l =>
             { l with filter := l.filter.turned, decoder := .inCall (.closed .offhook) c }))
         | .offhook => reportGlitch n (s.modLine n fun l =>
             { l with filter := l.filter.turned, decoder := .inCall (.closed .offhook) c })
         | .discard => s.modLine n fun l => { l with filter := l.filter.turned, decoder := .inCall (.closed .offhook) c }))))

/-- While LU is up, LOOP_TRANSITION where the transition is confirmed is that arrival, its G sample F (the model's choice, log entry 1),
and steps 2 and 3 of R47 follow what is said here: R55, R73, R75: a pulse from OFFHOOK begins a digit with n = 1, its break as the last
accepted one, everything else of the digit 0, and the first-pulse threshold. R56, R73, R74, R75: a pulse in a digit of fewer than 20
records the make and period of the pulse before, judges its ratio, counts itself and recomputes the threshold from the mean of the makes.
R57: a pulse in DISCARD only sets the make accumulator to 0. -/
def Obligations.PulsesBuildTheDigit : Prop :=
  (∀ (n : LineId) (s : State) (c : Call), s.lu.up = true → s.confirms n → (s.line n).config.mode = .convert →
     (s.line n).filter.loop = .opened → (s.line n).decoder = .inCall (.opened .offhook) c →
     (s.profileOf n).pulseMin * 8 ≤ (s.line n).filter.endedLength →
     (s.line n).filter.endedLength ≤ (s.profileOf n).pulseMax * 8 →
     exec (.loopTransition n) s = .next (faultSample n (s.line n).filter.fault (laterSteps n ⟨s.modLine n fun l =>
       { l with
         filter := l.filter.turned
         decoder := .inCall (.closed .indigit)
           { c with
             pulses := 1
             lastBreak := l.filter.endedLength
             makeAcc := 0
             makeSum := 0
             makeCount := 0
             periodSum := 0
             distorted := 0
             threshold := some (endThreshold l.config.endOverride (s.profileOf n) c.learned) } }, false⟩))) ∧
  (∀ (n : LineId) (s : State) (c : Call), s.lu.up = true → s.confirms n → (s.line n).config.mode = .convert →
     (s.line n).filter.loop = .opened → (s.line n).decoder = .inCall (.opened .indigit) c →
     (s.profileOf n).pulseMin * 8 ≤ (s.line n).filter.endedLength →
     (s.line n).filter.endedLength ≤ (s.profileOf n).pulseMax * 8 → c.pulses < 20 → 0 < c.lastBreak + c.makeAcc →
     exec (.loopTransition n) s = .next (faultSample n (s.line n).filter.fault (laterSteps n ⟨s.modLine n fun l =>
       { l with
         filter := l.filter.turned
         decoder := .inCall (.closed .indigit)
           { c with
             pulses := c.pulses + 1
             lastBreak := l.filter.endedLength
             makeAcc := 0
             makeSum := min 1048575 (c.makeSum + c.makeAcc)
             makeCount := c.makeCount + 1
             periodSum := min 1048575 (c.periodSum + (c.lastBreak + c.makeAcc))
             distorted := c.distorted +
               if 100 * c.lastBreak / (c.lastBreak + c.makeAcc) < (s.profileOf n).ratioMin ∨
                 (s.profileOf n).ratioMax < 100 * c.lastBreak / (c.lastBreak + c.makeAcc) then 1 else 0
             threshold := some (endThreshold l.config.endOverride (s.profileOf n)
               (some (min 1048575 (c.makeSum + c.makeAcc) / (c.makeCount + 1)))) } }, false⟩))) ∧
  (∀ (n : LineId) (s : State) (c : Call), s.lu.up = true → s.confirms n → (s.line n).config.mode = .convert →
     (s.line n).filter.loop = .opened → (s.line n).decoder = .inCall (.opened .discard) c →
     (s.profileOf n).pulseMin * 8 ≤ (s.line n).filter.endedLength →
     (s.line n).filter.endedLength ≤ (s.profileOf n).pulseMax * 8 →
     exec (.loopTransition n) s = .next (faultSample n (s.line n).filter.fault (laterSteps n ⟨s.modLine n fun l =>
       { l with filter := l.filter.turned, decoder := .inCall (.closed .discard) { c with makeAcc := 0 } }, false⟩)))

/-- While LU is up, LOOP_TRANSITION where the transition is confirmed is that arrival, its G sample F (the model's choice, log entry 1),
and steps 2 and 3 of R47 follow what is said here: R56, R77, R61: the twenty-first pulse rejects the digit OVERLONG: DISCARD, the make of
pulse 20 in the sums, the mean of 20 makes in the threshold, DIGIT-REJECT with its reason, and a report of 20 pulses with the ratio of
pulse 20 judged. -/
def Obligations.OverlongDigits : Prop :=
  ∀ (n : LineId) (s : State) (c : Call), s.lu.up = true → s.confirms n → (s.line n).config.mode = .convert →
    (s.line n).filter.loop = .opened → (s.line n).decoder = .inCall (.opened .indigit) c →
    (s.profileOf n).pulseMin * 8 ≤ (s.line n).filter.endedLength →
    (s.line n).filter.endedLength ≤ (s.profileOf n).pulseMax * 8 → 20 ≤ c.pulses → 0 < c.lastBreak + c.makeAcc →
    exec (.loopTransition n) s = .next (faultSample n (s.line n).filter.fault (laterSteps n
      ⟨reportDigit n
        ⟨20, c.distorted + (if 100 * c.lastBreak / (c.lastBreak + c.makeAcc) < (s.profileOf n).ratioMin ∨
            (s.profileOf n).ratioMax < 100 * c.lastBreak / (c.lastBreak + c.makeAcc) then 1 else 0), true, false, none⟩
        (latchReject n .overlong (s.modLine n fun l =>
          { l with
            filter := l.filter.turned
            decoder := .inCall (.closed .discard)
              { c with
                makeAcc := 0
                makeSum := min 1048575 (c.makeSum + c.makeAcc)
                periodSum := min 1048575 (c.periodSum + (c.lastBreak + c.makeAcc))
                threshold := some (endThreshold l.config.endOverride (s.profileOf n)
                  (some (min 1048575 (c.makeSum + c.makeAcc) / 20))) } })), false⟩))

/-- While LU is up, FAULT_STATE_CHANGE where the fault run is one short of 16 is that arrival, its L sample agreeing with the loop state
(the model's choice, log entry 1) and taken first with all its consequences (R41): R40, R67, R68: the sixteenth contrary fault sample changes
F and latches FAULT-ON or FAULT-OFF. Outside CONVERT nothing else happens; in CONVERT F becoming 1 clears any call into FAULT. F becoming 0
with the loop OPEN leaves FAULT for IDLE, and the line then takes its pending mode (R28). That the mode asked is the one the L sample of
the same arrival left, a pending mode taken at it included, is the model's reading (log entry 15). -/
def Obligations.FaultChanges : Prop :=
  ∀ (n : LineId) (s u : State), s.lu.up = true → 15 ≤ (s.line n).filter.faultRun →
    u = loopSample n ((s.line n).filter.loop = .closed) s →
    ((s.line n).filter.fault = false → exec (.faultStateChange n) s = .next
      (if (u.line n).config.mode = .convert then
        clearCall n .fault (latch n .faultOn (u.modLine n fun l => { l with filter := { l.filter with fault := true, faultRun := 0 } }))
      else latch n .faultOn (u.modLine n fun l => { l with filter := { l.filter with fault := true, faultRun := 0 } }))) ∧
    ((s.line n).filter.fault = true → exec (.faultStateChange n) s = .next
      (if (u.line n).decoder = .fault ∧ (u.line n).filter.loop = .opened then
        (latch n .faultOff (u.modLine n fun l =>
          { l with filter := { l.filter with fault := false, faultRun := 0 } })).modLine n fun l =>
            { l with decoder := .idle, config := l.config.taken }
      else latch n .faultOff (u.modLine n fun l => { l with filter := { l.filter with fault := false, faultRun := 0 } })))

/-- R66, R130, R86: the clear of a call returns its bindings, ends its record and stops the emitter; nothing else of the line changes. -/
def Obligations.ClearsEndTheCall : Prop :=
  ∀ (n : LineId) (s : State) (st : CallState) (c : Call) (d : Decoder), (s.line n).decoder = .inCall st c →
    ((clearCall n d s).line n) = { s.line n with decoder := d, emission := ⟨.quiet, [], none, false, none⟩ } ∧
    ((clearCall n d s).xlat.get c.transPage.set).bound c.transPage.page =
      (s.xlat.get c.transPage.set).bound c.transPage.page - 1 ∧
    (∀ k, c.codePage = some k → ((clearCall n d s).code.get k.set).bound k.page = (s.code.get k.set).bound k.page - 1) ∧
    (∀ m, m ≠ n → (clearCall n d s).line m = s.line m) ∧ (clearCall n d s).attention = s.attention

/-- While LU is up, LOOP_TRANSITION where the transition is confirmed is that arrival, its G sample F (the model's choice, log entry 1):
R59, R64: a flash break from OFFHOOK or DISCARD returns to OFFHOOK and hands one flash on, and the dial-idle count takes the arrival (R63);
from INDIGIT the digit completes first; a break longer than FLASH_MAX clears the call, and the line then takes a pending PASS (R28). -/
def Obligations.FlashAndClearBreaks : Prop :=
  ∀ (n : LineId) (s : State) (from_ : DigitPhase) (c : Call), s.lu.up = true → s.confirms n → (s.line n).config.mode = .convert →
    (s.line n).filter.loop = .opened → (s.line n).decoder = .inCall (.opened from_) c → (s.profileOf n).ordered = true →
    ((s.profileOf n).flashMin * 8 ≤ (s.line n).filter.endedLength → (s.line n).filter.endedLength ≤ (s.profileOf n).flashMax * 8 →
      exec (.loopTransition n) s = .next (faultSample n (s.line n).filter.fault
        (if from_ = .indigit then handFlash n (completeDigit n c (s.setFilter n (s.line n).filter.turned))
          else takeDialIdle n (handFlash n
            (s.modLine n fun l => { l with filter := l.filter.turned, decoder := .inCall (.closed .offhook) c }))))) ∧
    ((s.profileOf n).flashMax * 8 < (s.line n).filter.endedLength → (s.line n).config.pendingMode ≠ some .convert →
      exec (.loopTransition n) s = .next (faultSample n (s.line n).filter.fault
        ((clearCall n .idle (s.setFilter n (s.line n).filter.turned)).modLine n fun l => { l with config := l.config.taken })))

/-! ## Calls and digits -/

/-- While LU is up, SEIZE_EXPIRY is the arrival at which the seize timer expires, its samples as the filter stands (the model's choice,
log entry 1): R50, R51, R86, R128: at the arrival that brings the closed length to SEIZE_MIN × 8 the call opens: OFFHOOK with a fresh
record bound to the ACTIVE pages, whose bound counts rise by one, MATCHING exactly when the code page's first entry is live, FIRST_WAIT
set. -/
def Obligations.SeizuresOpenCalls : Prop :=
  ∀ (n : LineId) (s : State), s.lu.up = true → (s.line n).config.mode = .convert → (s.line n).decoder = .seizing →
    (s.profileOf n).seizeMin * 8 ≤ min 65535 ((s.line n).filter.age + 1) →
    ∃ t, exec (.seizeExpiry n) s = .next t ∧
      (t.line n).decoder = .inCall (.closed .offhook)
        { transPage := ⟨(s.profileOf n).xlatSet, (s.xlat.get (s.profileOf n).xlatSet).active⟩
          codePage := (s.profileOf n).codeSet.map fun k => ⟨k, (s.code.get k).active⟩
          phase := match (s.profileOf n).codeSet with
            | none => .free
            | some k => if (((s.code.get k).entries (s.code.get k).active).get 0).isEnd then .free else .matching
          held := [], fallback := none, pulses := 0, makeAcc := 0, makeSum := 0, makeCount := 0, periodSum := 0,
          lastBreak := 0, distorted := 0, learned := none, threshold := none, dialIdle := 0 } ∧
      (t.xlat.get (s.profileOf n).xlatSet).bound (s.xlat.get (s.profileOf n).xlatSet).active =
        (s.xlat.get (s.profileOf n).xlatSet).bound (s.xlat.get (s.profileOf n).xlatSet).active + 1 ∧
      (∀ k, (s.profileOf n).codeSet = some k →
        (t.code.get k).bound (s.code.get k).active = (s.code.get k).bound (s.code.get k).active + 1) ∧
      (t.line n).emission = { (s.line n).emission with
        firstWait := if (s.profileOf n).firstDelay * 8 = 0 then none else some ((s.profileOf n).firstDelay * 8) } ∧
      (t.line n).filter = { (s.line n).filter with age := min 65535 ((s.line n).filter.age + 1), run := 0, faultRun := 0 } ∧
      (t.line n).config = (s.line n).config ∧ (t.line n).events = (s.line n).events

/-- While LU is up, DIGIT_END_EXPIRY is the arrival of a CONVERT line at which the digit-end timer expires, its samples as the filter stands
(the model's choice, log entry 1): R60, R61, R78, R79, R87: when the make reaches the threshold in force the digit completes: OFFHOOK,
dial-idle 0, the learned make, what its count translates to on the bound page, and one report. R62: in DISCARD the same expiry returns to
OFFHOOK, and the dial-idle count takes the arrival (R63); the sample itself grows the age, and an aborted run is counted (R35). -/
def Obligations.DigitEndExpiriesAct : Prop :=
  (∀ (n : LineId) (s u : State) (c : Call) (threshold : Nat), s.lu.up = true → (s.line n).config.mode = .convert →
     (s.line n).decoder = .inCall (.closed .indigit) c →
     c.threshold = some threshold → threshold ≤ c.makeAcc + min 65535 ((s.line n).filter.age + 1) → 1 ≤ c.pulses → c.pulses ≤ 20 →
     u = (agreeingSample n s).setDecoder n (.inCall (.closed .offhook)
       { c with
         learned := if 1 ≤ c.makeCount then some (c.makeSum / c.makeCount) else c.learned
         dialIdle := 0 }) →
     exec (.digitEndExpiry n) s = .next (faultSample n (s.line n).filter.fault
       (match (((s.xlat.get c.transPage.set).entries c.transPage.page).toList[c.pulses - 1]?).getD .reject with
         | .symbol sym => reportDigit n ⟨c.pulses, c.distorted, false, speedOutside (s.profileOf n) c.speed, c.speed⟩ (handSymbol n sym u)
         | .ignore => reportDigit n ⟨c.pulses, c.distorted, false, speedOutside (s.profileOf n) c.speed, c.speed⟩ u
         | .flash => reportDigit n ⟨c.pulses, c.distorted, false, speedOutside (s.profileOf n) c.speed, c.speed⟩ (handFlash n u)
         | .reject => reportDigit n ⟨c.pulses, c.distorted, true, speedOutside (s.profileOf n) c.speed, c.speed⟩
             (latchReject n .table u)))) ∧
  (∀ (n : LineId) (s : State) (c : Call) (threshold : Nat), s.lu.up = true → (s.line n).config.mode = .convert →
     (s.line n).decoder = .inCall (.closed .discard) c →
     c.threshold = some threshold → threshold ≤ c.makeAcc + min 65535 ((s.line n).filter.age + 1) →
     exec (.digitEndExpiry n) s = .next (faultSample n (s.line n).filter.fault (takeDialIdle n (s.modLine n fun l =>
       { l with
         filter := { l.filter with age := min 65535 (l.filter.age + 1), run := 0 }
         decoder := .inCall (.closed .offhook) c
         quality := if l.filter.run = 0 then l.quality
           else { l.quality with
             current := { l.quality.current with abortedRuns := min 65535 (l.quality.current.abortedRuns + 1) } } }))))

/-- R78: the speed of a completed digit of two or more pulses is floor(80000 / floor(period sum / (n − 1))), one of a single pulse has
none, and a speed equal to either limit is in band. R75: the digit-end threshold: the override, else END_FIRST when fixed or without a
mean make, else the clamped multiple of it. R76, R80: every arrival of a CONVERT line, and every line-time row, leaves the make
accumulator of a digit or discard that goes on, with the measured closed length, below the threshold in force, and the make before a break
in it too. -/
def Obligations.SpeedsAndThresholdsAreComputed : Prop :=
  (∀ (c : Call) (p : Profile), (c.pulses < 2 → c.speed = none) ∧
     (2 ≤ c.pulses → c.pulses - 1 ≤ c.periodSum → c.speed = some (80000 / (c.periodSum / (c.pulses - 1)))) ∧
     speedOutside p none = false ∧ ∀ v, speedOutside p (some v) = true ↔ v < p.speedMin ∨ p.speedMax < v) ∧
  (∀ (o : Option Nat) (p : Profile) (mean : Option Nat),
     (∀ v, o = some v → endThreshold o p mean = v * 8) ∧
     (o = none → p.endFixed = true → endThreshold o p mean = p.endFirst * 8) ∧
     (o = none → mean = none → endThreshold o p mean = p.endFirst * 8) ∧
     (∀ m, o = none → p.endFixed = false → mean = some m → p.endMin ≤ p.endMax →
       endThreshold o p mean = max (p.endMin * 8) (min (p.endMax * 8) (m * p.endMult / 8)))) ∧
  (∀ (n : LineId) (s : State) (l g : Bool), (s.line n).config.mode = .convert → (s.line n).withinThreshold →
     ((arrival n l g s).line n).withinThreshold) ∧
  ∀ (n : LineId) (s t : State) (c : Instr), c = .loopTransition n ∨ c = .faultStateChange n ∨ c = .seizeExpiry n ∨
    c = .digitEndExpiry n ∨ c = .dialIdleExpiry n ∨ c = .clearExpiry n → exec c s = .next t →
    (s.line n).config.mode = .convert → (s.line n).withinThreshold → (t.line n).withinThreshold

/-- While LU is up, CLEAR_EXPIRY and DIAL_IDLE_EXPIRY are the arrival of a CONVERT line at which the timer expires, its samples as the
filter stands (the model's choice, log entry 1): R64, R66: when the measured break first exceeds FLASH_MAX × 8 the call clears and the
decoder enters IDLE, with no event; a pending PASS is then taken (R28). R63, R109, R110: at the dial-idle expiry a MATCHING call resolves on
its fallback: FREE with an empty context, the effects of the matched entry, and its output queued; with no fallback the held symbols are
queued. It comes at step 3 of R47, after a DISCARD that ends at the same arrival; a digit that completes at it or a call that clears at it
leaves no dial-idle expiry. R63: an arrival counts one on the dial-idle count, up to 262143, and while MATCHING the count is compared with
DIAL_IDLE × 8. -/
def Obligations.ClearAndDialIdleExpiriesAct : Prop :=
  (∀ (n : LineId) (s : State) (from_ : DigitPhase) (c : Call), s.lu.up = true → (s.line n).config.mode = .convert →
     (s.line n).decoder = .inCall (.opened from_) c → (s.profileOf n).flashMax * 8 < min 65535 ((s.line n).filter.age + 1) →
     ((s.line n).config.pendingMode = none →
       exec (.clearExpiry n) s = .next (faultSample n (s.line n).filter.fault (clearCall n .idle (agreeingSample n s)))) ∧
     ((s.line n).config.pendingMode = some .pass →
       exec (.clearExpiry n) s = .next (faultSample n (s.line n).filter.fault
         ((clearCall n .idle (agreeingSample n s)).modLine n fun l =>
           { l with config := { l.config with mode := .pass, pendingMode := none } })))) ∧
  (∀ (n : LineId) (s : State) (st after : CallState) (c d : Call), s.lu.up = true → (s.line n).config.mode = .convert →
     (s.line n).decoder = .inCall st c → c.phase = .matching → (s.profileOf n).dialIdle * 8 ≤ min 262143 (c.dialIdle + 1) →
     d = { c with dialIdle := min 262143 (c.dialIdle + 1) } →
     (clearDue n (agreeingSample n s) = true ∨ st = .closed .indigit ∧ digitEndDue n (agreeingSample n s) = true →
       exec (.dialIdleExpiry n) s = .next s) ∧
     (clearDue n (agreeingSample n s) = false →
       after = st ∧ digitEndDue n (agreeingSample n s) = false ∨
         after = .closed .offhook ∧ st = .closed .discard ∧ digitEndDue n (agreeingSample n s) = true →
       (c.fallback = none → exec (.dialIdleExpiry n) s = .next (faultSample n (s.line n).filter.fault
         (bring n (c.held.map .digit) ((agreeingSample n s).setDecoder n (.inCall after
           { d with held := [], fallback := none, phase := .free }))))) ∧
       ∀ f e, c.fallback = some f → (s.liveOf c)[f]? = some e →
         exec (.dialIdleExpiry n) s = .next (faultSample n (s.line n).filter.fault
           (bring n ((resolvedSymbols c.held (some e)).map .digit)
             ((matchEffects n f e ((agreeingSample n s).setDecoder n (.inCall after d))).modCall n fun k =>
               { k with held := [], fallback := none, phase := .free }))))) ∧
  ∀ (n : LineId) (s : State) (st : CallState) (c d : Call), (s.line n).decoder = .inCall st c →
    d = { c with dialIdle := min 262143 (c.dialIdle + 1) } →
    takeDialIdle n s = if c.phase = .matching ∧ (s.profileOf n).dialIdle * 8 ≤ d.dialIdle
      then handDialIdle n (s.setDecoder n (.inCall st d)) else s.setDecoder n (.inCall st d)

/-! ## Screening, queue and capture -/

/-- R107: an entry is complete when the held list equals its code, open when it is a proper prefix of it, and dead otherwise.
R108: the decision after the fallback is updated. R110, R111: what a resolution queues: the held symbols, or the action's output
and then the surplus. R107 to R110: while MATCHING a symbol joins the held list, and a complete entry below the fallback, or with no
fallback held, becomes the fallback. With an entry open below the fallback, or open with no fallback, the screen waits; with none it
resolves on the fallback, or with no match. A flash forces the resolution on the fallback as it stands, with one FLASH after the output.
R111, R112, R115: a match by CAPTURE writes the capture record, counting an overwrite up to 255, and latches CAPTURE; NOTIFY latches
CODE-MATCH. -/
def Obligations.ScreensDecideAndResolve : Prop :=
  (∀ (held : List Symbol) (e : CodeEntry),
     (classify held e = .complete ↔ held = e.code) ∧
     (classify held e = .pending ↔ held.length < e.code.length ∧ held = e.code.take held.length) ∧
     (classify held e = .dead ↔ held ≠ e.code ∧ ¬ held <+: e.code)) ∧
  (∀ (live : List CodeEntry) (held : List Symbol) (fallback : Option Nat),
     (∀ f, fallback = some f → (∀ j e, live[j]? = some e → j < f → classify held e ≠ .pending) →
       decideScreen live held fallback = .found f) ∧
     (fallback = none → (∀ e ∈ live, classify held e ≠ .pending) → decideScreen live held fallback = .noMatch) ∧
     (∀ f j e, fallback = some f → live[j]? = some e → j < f → classify held e = .pending →
       decideScreen live held fallback = .wait) ∧
     (fallback = none → (∃ e ∈ live, classify held e = .pending) → decideScreen live held fallback = .wait)) ∧
  (∀ (held : List Symbol) (e : CodeEntry), resolvedSymbols held none = held ∧
     (e.action = some .pass → resolvedSymbols held (some e) = held) ∧
     (e.action = some .capture → resolvedSymbols held (some e) = held.drop e.code.length) ∧
     (e.action = some .substitute → resolvedSymbols held (some e) = e.replacement ++ held.drop e.code.length)) ∧
  (∀ (n : LineId) (s : State) (c : Call) (sym : Symbol), s.callOf n = some c → c.phase = .matching →
     (c.fallback = none → (∀ e ∈ s.liveOf c, classify (c.held ++ [sym]) e ≠ .complete) →
       ((∃ e ∈ s.liveOf c, classify (c.held ++ [sym]) e = .pending) →
         handSymbol n sym s = s.modCall n fun k => { k with held := c.held ++ [sym] }) ∧
       ((∀ e ∈ s.liveOf c, classify (c.held ++ [sym]) e = .dead) →
         handSymbol n sym s = bring n ((c.held ++ [sym]).map .digit) (s.modCall n fun k =>
           { k with held := [], fallback := none, phase := .free }))) ∧
     (∀ g e, (s.liveOf c)[g]? = some e →
       (∀ j d, (s.liveOf c)[j]? = some d → j < g → classify (c.held ++ [sym]) d ≠ .complete) →
       c.fallback = some g ∨ e.code = c.held ++ [sym] ∧ (∀ f, c.fallback = some f → g < f) →
       ((∃ j d, (s.liveOf c)[j]? = some d ∧ j < g ∧ classify (c.held ++ [sym]) d = .pending) →
         handSymbol n sym s = s.modCall n fun k => { k with held := c.held ++ [sym], fallback := some g }) ∧
       ((∀ j d, (s.liveOf c)[j]? = some d → j < g → classify (c.held ++ [sym]) d = .dead) →
         handSymbol n sym s = bring n ((resolvedSymbols (c.held ++ [sym]) (some e)).map .digit)
           ((matchEffects n g e (s.modCall n fun k => { k with held := c.held ++ [sym], fallback := some g })).modCall n fun k =>
             { k with held := [], fallback := none, phase := .free }))) ∧
     (c.fallback = none → handFlash n s = bring n (c.held.map .digit ++ [.flash]) (s.modCall n fun k =>
       { k with held := [], fallback := none, phase := .free })) ∧
     (∀ f e, c.fallback = some f → (s.liveOf c)[f]? = some e →
       handFlash n s = bring n ((resolvedSymbols c.held (some e)).map .digit ++ [.flash])
         ((matchEffects n f e s).modCall n fun k => { k with held := [], fallback := none, phase := .free }))) ∧
  (∀ (n : LineId) (offset : Nat) (e : CodeEntry) (s : State),
     ((matchEffects n offset e s).line n).capture =
       (if e.action = some .capture then some (match (s.line n).capture with
         | none => ⟨offset, e.code, 0⟩
         | some r => ⟨offset, e.code, min 255 (r.overwrites + 1)⟩)
       else (s.line n).capture) ∧
     ((matchEffects n offset e s).line n).events = (s.line n).events |||
       (if e.action = some .capture then 0x001 else 0) ||| (if e.notify then 0x002 else 0))

/-- R118: the items of one producing event join the tail up to 16, the rest is discarded, and QUEUE-OVERFLOW is raised exactly
when an item was lost. R113: in FREE a symbol and a flash go straight to the queue, one item each. -/
def Obligations.ItemsJoinTheQueue : Prop :=
  (∀ (n : LineId) (items : List Item) (s : State),
     ((s.line n).emission.queue.length + items.length ≤ 16 →
       bring n items s = s.modLine n fun l => { l with emission := { l.emission with queue := l.emission.queue ++ items } }) ∧
     (16 < (s.line n).emission.queue.length + items.length →
       bring n items s = latch n .queueOverflow (s.modLine n fun l =>
         { l with emission := { l.emission with queue := (l.emission.queue ++ items).take 16 } }))) ∧
  (∀ (n : LineId) (s : State) (c : Call), s.callOf n = some c → c.phase = .free →
     (∀ sym, handSymbol n sym s = bring n [.digit sym] s) ∧ handFlash n s = bring n [.flash] s)

/-! ## The Tone Emitter -/

/-- R124, R125, R126: a free emitter takes a WAITING slot first, otherwise the queue head; a symbol begins its burst in this frame, with
the lengths, increments and amplitudes as they stand, and a flash its opening. An emitter outside QUIET, held or in FIRST_WAIT, and one
for which nothing waits, takes nothing. That EMITTER_TAKE_ITEM by itself changes only the line's emission, and nothing where the emitter
takes nothing, is the model's choice (log entry 1). -/
def Obligations.EmittersTakeItems : Prop :=
  (∀ (n : LineId) (s : State), (s.line n).emission.state = .quiet → (s.line n).emission.firstWait = none →
    (s.line n).emission.hold = false →
    (∀ sym notify, (s.line n).emission.slot = some ⟨sym, notify, .waiting⟩ →
      exec (.emitterTakeItem n) s = .next (s.modLine n fun l =>
        { l with emission := { l.emission with slot := some ⟨sym, notify, .emitting⟩, state := .tone (s.burstOf n sym) } })) ∧
    (∀ sym rest, (s.line n).emission.slot = none → (s.line n).emission.queue = .digit sym :: rest →
      exec (.emitterTakeItem n) s = .next (s.modLine n fun l =>
        { l with emission := { l.emission with queue := rest, state := .tone (s.burstOf n sym) } })) ∧
    (∀ rest, (s.line n).emission.slot = none → (s.line n).emission.queue = .flash :: rest →
      exec (.emitterTakeItem n) s = .next (s.modLine n fun l =>
        { l with emission := { l.emission with
          queue := rest
          state := .flashOut ((s.profileOf n).flashOpen * 8 - 1) ((s.profileOf n).flashGuard * 8) } }))) ∧
  ∀ (n : LineId) (s : State), (s.line n).emission.state ≠ .quiet ∨ (s.line n).emission.firstWait ≠ none ∨
      (s.line n).emission.hold = true ∨
      (s.line n).emission.queue = [] ∧ (∀ sym notify, (s.line n).emission.slot ≠ some ⟨sym, notify, .waiting⟩) →
    exec (.emitterTakeItem n) s = .next s

/-- R135, R136: the increments of a burst, its amplitudes and lengths as read at the taking, the phases of its samples, and the mix
truncated toward zero and saturated. -/
def Obligations.BurstsAreSynthesised : Prop :=
  (∀ (n : LineId) (s : State) (sym : Symbol), s.burstOf n sym =
    ⟨sym, ((s.tones.get sym).fLow * 65536 + 4000) / 8000, ((s.tones.get sym).fHigh * 65536 + 4000) / 8000,
      (s.tones.get sym).aLow, (s.tones.get sym).aHigh, 0, (s.profileOf n).toneOn * 8 - 1, (s.profileOf n).toneGap * 8⟩) ∧
  (∀ b : Burst, b.toneSample = max (-8191) (min 8191
    ((b.ampLow * sine (b.sample * b.incLow % 65536) + b.ampHigh * sine (b.sample * b.incHigh % 65536)).tdiv 4096))) ∧
  (∀ b : Burst, b.sample = 0 → b.toneSample = 0) ∧
  sine 5710 = 4263 ∧ sine 9904 = 6660 ∧ sine 11420 = 7281 ∧ sine 19808 = 7754 ∧ sine 16384 = 8191 ∧ sine 49152 = -8191 ∧ sine 32768 = 0

/-- R125, R126, R122: the ends of the emitter's states: a burst goes to GAP, an opening to GUARD, a gap and a guard to QUIET;
the gap of an inserted symbol empties the slot and latches INSERT-DONE if its notify flag was set. R128: in the output frame in
which the count of FIRST_WAIT reaches 0, it clears. R123 to R126: what an output frame does to an emitter: one frame less of its state,
with the next sample in TONE; at the last, the end of the state, and out of QUIET, a gap or a guard the next item at once. R128: FIRST_WAIT
counts one output frame down. That BURST_END, GAP_END, FLASH_OPEN_END, GUARD_END and FIRST_WAIT_END by themselves change only what their
moment changes, GAP_END and GUARD_END without taking the next item, is the model's choice (log entry 1). -/
def Obligations.EmitterStatesEnd : Prop :=
  (∀ (n : LineId) (s : State),
     (∀ b, (s.line n).emission.state = .tone b → b.remaining = 0 → exec (.burstEnd n) s = .next
       (s.modLine n fun l => { l with emission := { l.emission with state := .gap (b.gapLength - 1) } })) ∧
     (∀ g, (s.line n).emission.state = .flashOut 0 g → exec (.flashOpenEnd n) s = .next
       (s.modLine n fun l => { l with emission := { l.emission with state := .guard (g - 1) } })) ∧
     ((s.line n).emission.state = .guard 0 → exec (.guardEnd n) s = .next
       (s.modLine n fun l => { l with emission := { l.emission with state := .quiet } })) ∧
     ((s.line n).emission.state = .gap 0 →
       ((∀ sym notify, (s.line n).emission.slot ≠ some ⟨sym, notify, .emitting⟩) → exec (.gapEnd n) s = .next
         (s.modLine n fun l => { l with emission := { l.emission with state := .quiet } })) ∧
       (∀ sym, (s.line n).emission.slot = some ⟨sym, false, .emitting⟩ → exec (.gapEnd n) s = .next
         (s.modLine n fun l => { l with emission := { l.emission with state := .quiet, slot := none } })) ∧
       (∀ sym, (s.line n).emission.slot = some ⟨sym, true, .emitting⟩ → exec (.gapEnd n) s = .next
         (latch n .insertDone (s.modLine n fun l => { l with emission := { l.emission with state := .quiet, slot := none } }))))) ∧
  (∀ (n : LineId) (s : State) (c : Nat), (s.line n).emission.firstWait = some c → c ≤ 1 →
     exec (.firstWaitEnd n) s = .next (s.modLine n fun l => { l with emission := { l.emission with firstWait := none } })) ∧
  (∀ (n : LineId) (s : State) (r : Nat),
     (∀ b, (s.line n).emission.state = .tone b → b.remaining = r + 1 → emitterFrame n s = s.modLine n fun l =>
       { l with emission := { l.emission with state := .tone { b with sample := b.sample + 1, remaining := r } } }) ∧
     ((s.line n).emission.state = .gap (r + 1) → emitterFrame n s = s.modLine n fun l =>
       { l with emission := { l.emission with state := .gap r } }) ∧
     (∀ g, (s.line n).emission.state = .flashOut (r + 1) g → emitterFrame n s = s.modLine n fun l =>
       { l with emission := { l.emission with state := .flashOut r g } }) ∧
     ((s.line n).emission.state = .guard (r + 1) → emitterFrame n s = s.modLine n fun l =>
       { l with emission := { l.emission with state := .guard r } })) ∧
  (∀ (n : LineId) (s : State),
     ((s.line n).emission.state = .quiet → exec (.emitterTakeItem n) s = .next (emitterFrame n s)) ∧
     (∀ b, (s.line n).emission.state = .tone b → b.remaining = 0 → exec (.burstEnd n) s = .next (emitterFrame n s)) ∧
     ((s.line n).emission.state = .gap 0 →
       ∃ u, exec (.gapEnd n) s = .next u ∧ exec (.emitterTakeItem n) u = .next (emitterFrame n s)) ∧
     (∀ g, (s.line n).emission.state = .flashOut 0 g → exec (.flashOpenEnd n) s = .next (emitterFrame n s)) ∧
     ((s.line n).emission.state = .guard 0 →
       ∃ u, exec (.guardEnd n) s = .next u ∧ exec (.emitterTakeItem n) u = .next (emitterFrame n s))) ∧
  ∀ (n : LineId) (s : State), countFirstWait n s = s.modLine n fun l =>
    { l with emission := { l.emission with
      firstWait := l.emission.firstWait.bind fun k => if k ≤ 1 then none else some (k - 1) } }

/-! ## Quality and events -/

/-- R151, R153: a digit report increases digits ended by one, the pulses and distorted pulses by its own, and the rejected and speed-out
digits by one if it is so marked, each saturating, and a speed it carries widens the extremes. R152: below QUAL_WINDOW that is all; the
report with which the count reaches QUAL_WINDOW ends the window: applied whole, the counters copied and zeroed, QUALITY latched exactly
when the window fails. QUALITY_WINDOW_END is that report while LU is up. That it does nothing where no window ends is the model's choice
(log entry 1), and so is that it takes as its operand also a report that no decoder makes, to the same effect (log entry 20), and that it
asks for no digit in progress: the window ends in every decoder state, and the decoder and DIGIT-REJECT stand (log entries 1 and 20);
that it does nothing while LU is not up is read from R48 and R151, a digit report coming from an arrival alone (log entry 1). -/
def Obligations.QualityWindowsEnd : Prop :=
  ∀ (n : LineId) (r : DigitReport) (s u : State) (q k : Counters) (x : Option Extremes), q = (s.line n).quality.current →
    k = ⟨min 65535 (q.digitsEnded + 1), min 65535 (q.pulses + r.pulses), min 65535 (q.distorted + r.distorted), q.glitches,
      q.abortedRuns, min 65535 (q.rejected + if r.rejected then 1 else 0), min 65535 (q.speedOut + if r.speedOut then 1 else 0),
      q.falseSeizures⟩ →
    x = (match r.speed, (s.line n).quality.extremes with
      | none, e => e
      | some v, none => some ⟨v, v⟩
      | some v, some e => some ⟨min e.slowest v, max e.fastest v⟩) →
    u = s.modLine n (fun l => { l with quality := ⟨⟨0, 0, 0, 0, 0, 0, 0, 0⟩, some k, x⟩ }) →
    (k.digitsEnded < s.part.qualWindow →
      reportDigit n r s = s.modLine n fun l => { l with quality := ⟨k, l.quality.last, x⟩ }) ∧
    (s.part.qualWindow ≤ k.digitsEnded →
      reportDigit n r s =
        (if (0 < k.pulses ∧ s.part.qualLimit * k.pulses ≤ k.distorted * 100) ∨ s.part.rejLimit ≤ k.rejected
          then latch n .quality u else u) ∧
      (s.lu.up = true → r.wf = true → (s.line n).config.mode = .convert → exec (.qualityWindowEnd n r) s = .next
        (if (0 < k.pulses ∧ s.part.qualLimit * k.pulses ≤ k.distorted * 100) ∨ s.part.rejLimit ≤ k.rejected
          then latch n .quality u else u))) ∧
    (r.wf = true → k.digitsEnded < s.part.qualWindow ∨ (s.line n).config.mode ≠ .convert ∨ s.lu.up = false →
      exec (.qualityWindowEnd n r) s = .next s)

/-- R155, R157, R160: latching a line event sets its flag whatever the mask, and wants attention exactly when the line enters the pending
map by it or attention was wanted already. Each raising of DIGIT-REJECT latches the flag and makes its reason the last reject reason,
whatever reason was held. R9, R156, R157, R160: latching a part event sets its flag whatever PART_MASK, and wants attention exactly when
the part bit enters the map by it or attention was wanted already. A line, and the part bit, is in the map exactly while a latched event
is enabled by its mask. Chapter 12.3: the bit of every line event and of every part event. -/
def Obligations.LatchingEntersTheMap : Prop :=
  (∀ (n : LineId) (e : LineEvent) (s : State),
    latch n e s = { (s.modLine n fun l => { l with events := l.events ||| e.bit }) with
      attention := s.attention ||
        ((s.line n).events &&& (s.line n).config.eventMask == 0 &&
          ((s.line n).events ||| e.bit) &&& (s.line n).config.eventMask != 0) }) ∧
  (∀ (n : LineId) (reason : RejectReason) (s : State),
    latchReject n reason s = { (s.modLine n fun l => { l with events := l.events ||| 0x004, rejectReason := some reason }) with
      attention := s.attention ||
        ((s.line n).events &&& (s.line n).config.eventMask == 0 &&
          ((s.line n).events ||| 0x004) &&& (s.line n).config.eventMask != 0) }) ∧
  (∀ (e : PartEvent) (s : State),
    latchPart e s = { s with
      partEvents := s.partEvents ||| e.bit
      attention := s.attention ||
        (s.partEvents &&& s.part.partMask == 0 && (s.partEvents ||| e.bit) &&& s.part.partMask != 0) }) ∧
  (∀ e : LineEvent, e.bit = match e with
    | .capture => 0x001 | .codeMatch => 0x002 | .digitReject => 0x004 | .queueOverflow => 0x008 | .quality => 0x010
    | .faultOn => 0x020 | .faultOff => 0x040 | .insertDone => 0x080 | .linkClear => 0x100) ∧
  (∀ e : PartEvent, e.bit = match e with
    | .luLock => 0x01 | .luLoss => 0x02 | .sdLock => 0x04 | .sdLoss => 0x08 | .checkFail => 0x10 | .requestDiscard => 0x20) ∧
  (∀ l : Line, l.inMap = true ↔ l.events &&& l.config.eventMask ≠ 0) ∧
  ∀ s : State, s.partInMap = true ↔ s.partEvents &&& s.part.partMask ≠ 0

/-! ## Messages and the request slot -/

/-- R161, R162: the octets of a message with a body of 2 to 64 octets, taken one after another from SEEK, offer its request to the
slot; octets other than SYNC are passed over; a LEN below 2 or above 64 and a wrong check pair are rejected, and counted. -/
def Obligations.ReceiverFramesMessages : Prop :=
  (∀ (s : State) (kind tag : Byte) (ps : List Byte), s.receiver = .seek → ps.length ≤ 62 →
    (messageOctets (kind :: tag :: ps)).foldl (fun t b => receiveOctet b t) s = offer ⟨kind, tag, ps⟩ s) ∧
  (∀ body : List Byte, body.length ≤ 64 → ∃ sum xor : Byte,
    messageOctets body = [0xC3, octet body.length] ++ body ++ [sum, xor] ∧
    sum.toNat = (body.length + (body.map BitVec.toNat).sum) % 256 ∧ xor = body.foldl (· ^^^ ·) (octet body.length)) ∧
  (∀ (s : State) (b : Byte), s.receiver = .seek → b ≠ 0xC3 → receiveOctet b s = s) ∧
  (∀ (s : State) (b : Byte), s.receiver = .length → b.toNat < 2 ∨ 64 < b.toNat →
    receiveOctet b s = latchPart .checkFail { s with receiver := .seek, checkFailures := min 65535 (s.checkFailures + 1) }) ∧
  ∀ (s : State) (got : List Byte) (first second : Byte), s.receiver = .check got (some first) →
    first ≠ (octet got.length :: got).foldl (· + ·) 0 ∨ second ≠ (octet got.length :: got).foldl (· ^^^ ·) 0 →
    receiveOctet second s = latchPart .checkFail { s with receiver := .seek, checkFailures := min 65535 (s.checkFailures + 1) }

/-- R164: an empty slot takes any message, whatever its KIND and length; at an occupied one the new message is discarded, counted and
raised, and the waiting request stays. R165: with room in the reply queue the request is executed at its admission, and the slot
empties; one whose KIND names no request is refused UNKNOWN, and one whose length does not fit its kind is refused FORMAT, by the
lengths of chapter 12.2 and, for a list of entries, of R174. The slot is empty after power-on reset (R173), and a soft reset empties
it (R172). That a request row is a whole message offered to the slot is the model's choice (log entry 4). -/
def Obligations.TheSlotHoldsOneRequest : Prop :=
  (∀ (s : State) (r : Request), s.slot = none → 4 ≤ s.replies.length → offer r s = { s with slot := some r }) ∧
  (∀ (s : State) (r : Request), s.ready → offer r s = execute r s ∧ (execute r s).slot = none) ∧
  (∀ (s : State) (r q : Request), s.slot = some q →
    offer r s = latchPart .requestDiscard { s with discardedRequests := min 65535 (s.discardedRequests + 1) } ∧
    (offer r s).slot = some q) ∧
  (∀ (s : State) (kind tag : Byte) (ps : List Byte), s.ready → ps.length ≤ 62 → kind = 0 ∨ 0x17 < kind.toNat →
    exec (.unknownRequest kind tag ps) s = .next (s.refusedBy tag kind .unknown)) ∧
  (∀ (s : State) (tag : Byte) (ps : List Byte), s.ready → ps.length ≤ 62 →
    (ps ≠ [] → exec (.identify tag ps) s = .next (s.refusedBy tag 0x01 .format) ∧
      exec (.partStatus tag ps) s = .next (s.refusedBy tag 0x02 .format) ∧
      exec (.tableClear tag ps) s = .next (s.refusedBy tag 0x0D .format) ∧
      exec (.tableClearcheck tag ps) s = .next (s.refusedBy tag 0x0E .format) ∧
      exec (.softReset tag ps) s = .next (s.refusedBy tag 0x17 .format)) ∧
    (ps ≠ [] → ps.length ≠ 9 → exec (.partConfigWrite tag ps) s = .next (s.refusedBy tag 0x03 .format)) ∧
    (ps.length ≠ 1 → exec (.lineStatus tag ps) s = .next (s.refusedBy tag 0x04 .format) ∧
      exec (.lineReset tag ps) s = .next (s.refusedBy tag 0x06 .format) ∧
      exec (.profileRead tag ps) s = .next (s.refusedBy tag 0x08 .format) ∧
      exec (.tableRead tag ps) s = .next (s.refusedBy tag 0x0B .format) ∧
      exec (.emitHold tag ps) s = .next (s.refusedBy tag 0x13 .format) ∧
      exec (.emitResume tag ps) s = .next (s.refusedBy tag 0x14 .format) ∧
      exec (.captureRead tag ps) s = .next (s.refusedBy tag 0x15 .format) ∧
      exec (.qualityRead tag ps) s = .next (s.refusedBy tag 0x16 .format)) ∧
    (ps.length ≠ 9 → exec (.lineConfig tag ps) s = .next (s.refusedBy tag 0x05 .format)) ∧
    (ps.length ≠ 39 → exec (.profileWrite tag ps) s = .next (s.refusedBy tag 0x07 .format)) ∧
    (ps.length ≠ 5 → exec (.cursorSet tag ps) s = .next (s.refusedBy tag 0x09 .format)) ∧
    (ps.length ≠ 2 → exec (.setSwap tag ps) s = .next (s.refusedBy tag 0x0F .format) ∧
      exec (.setLock tag ps) s = .next (s.refusedBy tag 0x10 .format) ∧
      exec (.setErase tag ps) s = .next (s.refusedBy tag 0x11 .format)) ∧
    (ps.length ≠ 3 → exec (.toneInsert tag ps) s = .next (s.refusedBy tag 0x12 .format)) ∧
    ((∀ k, s.cursor.table = .trans k → ps.length = 0 ∨ 20 < ps.length) →
      (∀ k, s.cursor.table = .code k → ps.length = 0 ∨ ps.length % 9 ≠ 0 ∨ 54 < ps.length) →
      (s.cursor.table = .tone → ps.length = 0 ∨ ps.length % 8 ≠ 0 ∨ 56 < ps.length) →
      exec (.tableWrite tag ps) s = .next (s.refusedBy tag 0x0A .format) ∧
      exec (.tableCompare tag ps) s = .next (s.refusedBy tag 0x0C .format))) ∧
  State.reset.slot = none ∧ ∀ s : State, (softResetNow s).slot = none

/-- R168, R169, R165: at a free position a reply is taken from the queue unless an attention notice goes first, and the request waiting
in the slot is executed at that moment; a notice carries the snapshot of the pending map and clears the flag, and an empty snapshot
sends none; with nothing to send the position carries 0x00. An octet position at which the transmitter is free makes that choice and
carries SYNC, the first octet of the message it starts, the rest of which follows octet by octet; an empty snapshot leaves the position
to the replies. In the third clause, that ATTENTION changes nothing where the transmitter is busy, the flag is clear or a reply goes first
is the model's choice (log entry 1). -/
def Obligations.TheTransmitterChooses : Prop :=
  (∀ (s : State) (r : Reply) (rest : List Reply), s.tx = none → s.replies = r :: rest →
    s.attention = false ∨ s.lastSent = .notice →
    (s.slot = none → exec .replyStart s = .next
      { s with replies := rest, tx := some ⟨messageOctets r.body, r.softReset⟩, lastSent := .reply }) ∧
    ∀ q, s.slot = some q → rest.length < 4 → exec .replyStart s = .next
      (execute q { s with replies := rest, tx := some ⟨messageOctets r.body, r.softReset⟩, lastSent := .reply })) ∧
  (∀ s : State, s.tx = none → s.attention = true → s.replies = [] ∨ s.lastSent = .reply →
    ((∃ n, (s.line n).inMap = true) ∨ s.partInMap = true → exec .attention s = .next
      { s with
        attention := false
        tx := some ⟨messageOctets (noticeBody (allLines.filter fun n => (s.line n).inMap) s.partInMap), false⟩
        lastSent := .notice }) ∧
    ((∀ n, (s.line n).inMap = false) → s.partInMap = false → exec .attention s = .next { s with attention := false })) ∧
  (∀ s : State, s.tx.isSome = true ∨ s.attention = false ∨ s.replies ≠ [] ∧ s.lastSent = .notice →
    exec .attention s = .next s) ∧
  (∀ s : State, s.tx = none → s.replies = [] → s.attention = false → sendOctet s = (0x00, s)) ∧
  (∀ (s : State) (r : Reply) (rest : List Reply) (started u : State), s.tx = none → s.replies = r :: rest →
    s.attention = false ∨ s.lastSent = .notice →
    started = { s with replies := rest, tx := some ⟨messageOctets r.body, r.softReset⟩, lastSent := .reply } →
    s.slot = none ∧ u = started ∨ (∃ q, s.slot = some q ∧ (rest.length < 4 ∧ u = execute q started ∨ 4 ≤ rest.length ∧ u = started)) →
    exec .replyStart s = .next u ∧ sendOctet s = (0xC3, { u with tx := some ⟨(messageOctets r.body).tail, r.softReset⟩ })) ∧
  (∀ s : State, s.tx = none → s.attention = true → s.replies = [] ∨ s.lastSent = .reply →
    ((∃ n, (s.line n).inMap = true) ∨ s.partInMap = true → sendOctet s = (0xC3,
      { s with
        attention := false
        tx := some ⟨(messageOctets (noticeBody (allLines.filter fun n => (s.line n).inMap) s.partInMap)).tail, false⟩
        lastSent := .notice })) ∧
    ((∀ n, (s.line n).inMap = false) → s.partInMap = false → sendOctet s = sendOctet { s with attention := false })) ∧
  (∀ body : List Byte, messageOctets body = 0xC3 :: (messageOctets body).tail) ∧
  (∀ (s : State) (b c : Byte) (rest : List Byte) (f : Bool), s.tx = some ⟨b :: c :: rest, f⟩ →
    sendOctet s = (b, { s with tx := some ⟨c :: rest, f⟩ })) ∧
  ∀ (s : State) (b : Byte), s.tx = some ⟨[b], false⟩ → sendOctet s = (b, { s with tx := none })

/-- R172: an accepted SOFT-RESET is acknowledged and makes a soft reset pending, and a further one is refused BUSY; when the last octet
of its reply is sent every line is reset, the part's flags and counters, the slot, the replies and the attention flag are cleared, and
the tables' contents, the profiles, the configuration, the cursor, the receiver and the ports are kept. That SOFT_RESET_ACTION by itself
is the octet position of that last octet, without its output frame, is the model's choice (log entry 1). -/
def Obligations.SoftResetsActAfterTheirReply : Prop :=
  (∀ (s : State) (tag : Byte), s.ready →
    (s.softReset = false → exec (.softReset tag []) s = .next
      { s with softReset := true, replies := s.replies ++ [⟨tag, 0x17, .ack false false .nothing, true⟩] }) ∧
    (s.softReset = true → exec (.softReset tag []) s = .next (s.refusedBy tag 0x17 .busy))) ∧
  ∀ (s : State) (b : Byte), s.tx = some ⟨[b], true⟩ → ∃ t, exec .softResetAction s = .next t ∧
    sendOctet s = (b, t) ∧
    t = { s with
      lines := t.lines, xlat := t.xlat, code := t.code, partEvents := 0, checkFailures := 0, discardedRequests := 0,
      attention := false, slot := none, replies := [], tx := none, lastSent := .notice, softReset := false } ∧
    (∀ n, t.line n = (lineReset n s).line n) ∧ (∀ n, t.callOf n = none) ∧
    (∀ k, (s.xlat.get k).sameButBound (t.xlat.get k)) ∧ ∀ k, (s.code.get k).sameButBound (t.code.get k)

/-! ## Part and line requests -/

/-- R171: IDENTIFY is acknowledged with a fixed record, the same in every state, and changes nothing but the reply queue. -/
def Obligations.IdentityIsFixed : Prop :=
  (∀ (s : State) (tag : Byte), s.ready → exec (.identify tag []) s = .next (s.acked tag 0x01 .identity)) ∧
  Result.identity.octets = [0x0B, 0x7A, 0x12, 0xFC, 1, 48, 8, 8, 20, 4, 16, 16, 16, 4] ∧ 0x12FC = 4860

/-- R158, R159: the status requests report what stands at their execution and clear what they report. R149: the voice report of LINE-STATUS
holds H and K as the latest output frame shows them in the line's SU channel, and the mute state and the mute sources of that frame; of
the other commands only POWER_ON_RESET changes any of it, and MUTE_WAIT_LIMIT by itself the mute state (the model's choice, log
entry 1). -/
def Obligations.StatusReadsReportAndClear : Prop :=
  (∀ (s : State) (tag : Byte), s.ready → exec (.partStatus tag []) s = .next
    ({ s with partEvents := 0, checkFailures := 0, discardedRequests := 0 }.acked tag 0x02
      (.part s.partEvents s.checkFailures s.discardedRequests s.lu.state s.sd.state))) ∧
  (∀ (s : State) (tag : Byte) (n : LineId), s.ready → exec (.lineStatus tag [octet n.val]) s = .next
    ((s.modLine n fun l => { l with events := 0, rejectReason := none }).acked tag 0x04
      (.lineReport
        { line := n
          events := (s.line n).events
          rejectReason := (s.line n).rejectReason
          mode := (s.line n).config.mode
          pendingMode := (s.line n).config.pendingMode
          decoder := (s.line n).decoder.code
          pulses := (s.line n).decoder.reportedPulses
          loop := (s.line n).filter.loop
          fault := (s.line n).filter.fault
          emitter := (s.line n).emission.report
          voice := (s.line n).voice.report }))) ∧
  (∀ (st : CallState) (c : Call), (Decoder.inCall st c).reportedPulses =
    if st = .closed .offhook ∨ st = .opened .offhook then 0 else c.pulses) ∧
  (∀ v : Voice, v.report = ⟨v.shownHook, v.shownFault, v.mute, v.shownSources⟩) ∧
  (∀ s : State, s.clock = .freeRunning ∨ s.paced ≠ [] → ∃ t, exec .outputFrame s = .next t ∧ ∀ n,
    (t.line n).voice.report = ⟨(t.su.channels.get n).a, (t.su.channels.get n).b,
      (s.line n).voice.mute.forward ((lineFrames (formLD s)).sourcesOf n) (t.lastVoice.get n),
      (lineFrames (formLD s)).sourcesOf n⟩) ∧
  (∀ (c : Instr) (s t : State), c ≠ .outputFrame → c ≠ .powerOnReset → exec c s = .next t → ∀ n,
    (c ≠ .muteWaitLimit n → (t.line n).voice = (s.line n).voice) ∧
    ∃ m, (t.line n).voice = { (s.line n).voice with mute := m }) ∧
  ∀ (s : State) (tag b : Byte), s.ready → 48 ≤ b.toNat →
    exec (.lineStatus tag [b]) s = .next (s.refusedBy tag 0x04 .range)

/-- R31, R32: PART-CONFIG reads the record; a write is refused VALUE for a QUAL_WINDOW other than 100 or 1000, and clamped, stored and
acknowledged otherwise, a wider PART_MASK bringing the part bit into the pending map. -/
def Obligations.PartConfigurationIsReadAndWritten : Prop :=
  (∀ (s : State) (tag : Byte), s.ready → exec (.partConfigRead tag) s = .next (s.acked tag 0x03 (.partConfig s.part))) ∧
  ∀ (s : State) (tag fwd back h1 h0 w1 w0 limit rej mask : Byte) (c : PartConfig), s.ready →
    c = ⟨max 1 (min 15 fwd.toNat), max 1 (min 15 back.toNat), max 100 (min 5000 (number2 h1 h0)), number2 w1 w0,
      max 1 (min 100 limit.toNat), max 1 rej.toNat, mask.extractLsb' 0 6⟩ →
    (c.qualWindow ≠ 100 → c.qualWindow ≠ 1000 →
      exec (.partConfigWrite tag [fwd, back, h1, h0, w1, w0, limit, rej, mask]) s = .next (s.refusedBy tag 0x03 .value)) ∧
    (c.qualWindow = 100 ∨ c.qualWindow = 1000 →
      exec (.partConfigWrite tag [fwd, back, h1, h0, w1, w0, limit, rej, mask]) s = .next
        ({ s with
          part := c
          attention := s.attention || (s.partEvents &&& s.part.partMask == 0 && s.partEvents &&& c.partMask != 0) }.replied
            tag 0x03 (.ack (c.fwdProt ≠ fwd.toNat ∨ c.backProt ≠ back.toNat ∨ c.lossHold ≠ number2 h1 h0 ∨
              c.qualLimit ≠ limit.toNat ∨ c.rejLimit ≠ rej.toNat) false (.partConfig c))))

/-- R24 to R29: an accepted LINE-CONFIG writes the fields, clears the speed extremes if METER_MODE changes, lets a line with an enabled
event enter the map, and then handles the mode: the same mode removes PENDING_MODE, PARKED acts at once and clears a call with no event,
CONVERT and PASS act at once on an idle line and are deferred on another. -/
def Obligations.LineConfigurationIsWritten : Prop :=
  (∀ (s u : State) (tag hi lo f vh vl : Byte) (n : LineId) (m : Mode) (p : Fin 8) (meter : MeterMode) (clamped : Bool)
      (cut : Option Nat), s.ready →
    cut = (if number2 vh vl = 0 then none else some (max 30 (min 1000 (number2 vh vl)))) →
    clamped = decide (number2 vh vl ≠ 0 ∧ (number2 vh vl < 30 ∨ 1000 < number2 vh vl)) →
    u = { (s.modLine n fun l =>
        { l with
          config := ⟨l.config.mode, l.config.pendingMode, p, (hi ++ lo).extractLsb' 0 9, f.getLsbD 0, cut, meter⟩
          quality := if l.config.meterMode = meter then l.quality else { l.quality with extremes := none } }) with
      attention := s.attention || ((s.line n).events &&& (s.line n).config.eventMask == 0 &&
        (s.line n).events &&& (hi ++ lo).extractLsb' 0 9 != 0) } →
    (m = .parked → (s.line n).config.mode = .parked →
      exec (.lineConfig tag [octet n.val, m.code, octet p.val, hi, lo, f, vh, vl, meter.code]) s = .next
        (u.replied tag 0x05 (.ack clamped false (.lineConfig n (u.line n).config)))) ∧
    (m ≠ .parked → (s.line n).config.mode = m → ∀ t, t = (u.modLine n fun l =>
        { l with config := { l.config with pendingMode := none } }) →
      exec (.lineConfig tag [octet n.val, m.code, octet p.val, hi, lo, f, vh, vl, meter.code]) s = .next
        (t.replied tag 0x05 (.ack clamped false (.lineConfig n (t.line n).config)))) ∧
    (m = .parked → (s.line n).config.mode ≠ .parked → ∀ t, t = ((clearCall n .idle u).modLine n fun l =>
        { l with config := { l.config with mode := .parked, pendingMode := none } }) →
      exec (.lineConfig tag [octet n.val, m.code, octet p.val, hi, lo, f, vh, vl, meter.code]) s = .next
        (t.replied tag 0x05 (.ack clamped false (.lineConfig n (t.line n).config)))) ∧
    (m ≠ .parked → (s.line n).config.mode ≠ m → (s.line n).config.mode = .parked ∨
        (s.line n).config.mode = .convert ∧ (s.line n).decoder = .idle ∨
        (s.line n).config.mode = .pass ∧ (s.line n).filter.loop = .opened → ∀ t, t = (u.modLine n fun l =>
        { l with
          config := { l.config with mode := m, pendingMode := none }
          decoder := if m = .convert ∧ l.filter.fault = true then .fault else .idle }) →
      exec (.lineConfig tag [octet n.val, m.code, octet p.val, hi, lo, f, vh, vl, meter.code]) s = .next
        (t.replied tag 0x05 (.ack clamped false (.lineConfig n (t.line n).config)))) ∧
    ((s.line n).config.mode = .convert ∧ m = .pass ∧ (s.line n).decoder ≠ .idle ∨
        (s.line n).config.mode = .pass ∧ m = .convert ∧ (s.line n).filter.loop = .closed → ∀ t, t = (u.modLine n fun l =>
        { l with config := { l.config with pendingMode := some m } }) →
      exec (.lineConfig tag [octet n.val, m.code, octet p.val, hi, lo, f, vh, vl, meter.code]) s = .next
        (t.replied tag 0x05 (.ack clamped true (.lineConfig n (t.line n).config))))) ∧
  ∀ (s : State) (tag : Byte) (ps : List Byte), s.ready → ps.length = 9 →
    (48 ≤ numAt ps 0 ∨ 8 ≤ numAt ps 2 → exec (.lineConfig tag ps) s = .next (s.refusedBy tag 0x05 .range)) ∧
    (numAt ps 0 < 48 → numAt ps 2 < 8 → 2 < numAt ps 1 ∨ 1 < numAt ps 8 →
      exec (.lineConfig tag ps) s = .next (s.refusedBy tag 0x05 .value))

/-- R30, R116, R154: LINE-RESET clears the call with no event, brings the line's running state to its starting values and applies a
PENDING_MODE; CAPTURE-READ reports and empties the capture record; QUALITY-READ reports, and clears the speed extremes in
RESET_ON_READ. A line outside 0 to 47 is refused RANGE by each. -/
def Obligations.LineRecordsAreReadAndReset : Prop :=
  (∀ (s : State) (tag : Byte) (n : LineId), s.ready →
    exec (.lineReset tag [octet n.val]) s = .next (((clearCall n .idle s).modLine n fun l =>
      { l with
        config := match l.config.pendingMode with
          | none => l.config
          | some m => { l.config with mode := m, pendingMode := none }
        filter := ⟨.opened, 0, 0, false, 0⟩
        emission := ⟨.quiet, [], none, false, none⟩
        quality := ⟨⟨0, 0, 0, 0, 0, 0, 0, 0⟩, none, none⟩
        capture := none
        events := 0
        rejectReason := none }).acked tag 0x06 .nothing) ∧
    exec (.captureRead tag [octet n.val]) s = .next
      ((s.modLine n fun l => { l with capture := none }).acked tag 0x15 (.capture (s.line n).capture)) ∧
    ((s.line n).config.meterMode = .resetOnRead → exec (.qualityRead tag [octet n.val]) s = .next
      ((s.modLine n fun l => { l with quality := { l.quality with extremes := none } }).acked tag 0x16
        (.quality (s.line n).quality))) ∧
    ((s.line n).config.meterMode = .hold → exec (.qualityRead tag [octet n.val]) s = .next
      (s.acked tag 0x16 (.quality (s.line n).quality)))) ∧
  ∀ (s : State) (tag b : Byte), s.ready → 48 ≤ b.toNat →
    exec (.lineReset tag [b]) s = .next (s.refusedBy tag 0x06 .range) ∧
    exec (.captureRead tag [b]) s = .next (s.refusedBy tag 0x15 .range) ∧
    exec (.qualityRead tag [b]) s = .next (s.refusedBy tag 0x16 .range)

/-! ## Profiles and tables -/

/-- R20: a PROFILE-READ of a profile 0 to 7 is acknowledged with all 24 fields as they stand, one of any other number is refused RANGE,
and neither changes anything. -/
def Obligations.ProfilesAreRead : Prop :=
  (∀ (s : State) (tag : Byte) (k : Fin 8), s.ready →
    exec (.profileRead tag [octet k.val]) s = .next (s.acked tag 0x08 (.profile k (s.profiles.get k)))) ∧
  ∀ (s : State) (tag b : Byte), s.ready → 8 ≤ b.toNat →
    exec (.profileRead tag [b]) s = .next (s.refusedBy tag 0x08 .range)

/-- R17, R18, R19, R174: a PROFILE-WRITE is refused RANGE for its profile, VALUE for its CODE_SET and ORDER for its clamped values; an
accepted one replaces the whole profile by the clamped values and says whether any was clamped. Every field is read from its octets of
chapter 12.4 and clamped to the nearer bound of its range of R17; CODE_SET is not. The octets of a profile whose values are in range carry
that profile. -/
def Obligations.ProfilesAreWritten : Prop :=
  (∀ (s : State) (tag : Byte) (k : Fin 8) (p : Profile), s.ready → p.inRange →
    (p.ordered = true → exec (.profileWrite tag (octet k.val :: p.octets)) s = .next
      ({ s with profiles := vmod s.profiles k fun _ => p }.acked tag 0x07 (.profile k p))) ∧
    (p.ordered = false → exec (.profileWrite tag (octet k.val :: p.octets)) s = .next (s.refusedBy tag 0x07 .order))) ∧
  (∀ (p : Profile), p.ordered = true ↔ p.pulseMin < p.pulseMax ∧ p.pulseMax < p.flashMin ∧ p.flashMin < p.flashMax ∧
    p.endMin ≤ p.endFirst ∧ p.endFirst ≤ p.endMax ∧ p.ratioMin < p.ratioMax ∧ p.speedMin < p.speedMax) ∧
  (∀ (w : ProfileWire) (c : Option (Fin 4)), (w.clamped.toProfile c).inRange ∧ (w.clamped.toProfile c).codeSet = c) ∧
  (∀ bs : List Byte, ∀ one two : Nat → Nat, (∀ i, one i = (bs.getD i 0).toNat) → (∀ i, two i = 256 * one i + one (i + 1)) →
    ProfileWire.ofOctets bs =
      { openProt := one 0, closeProt := one 1, seizeMin := two 2, pulseMin := two 4, pulseMax := two 6, flashMin := two 8,
        flashMax := two 10, endFirst := two 12, endMin := two 14, endMax := two 16, endMult := one 18, endFixed := one 19,
        ratioMin := one 20, ratioMax := one 21, speedMin := one 22, speedMax := one 23, dialIdle := two 24, xlatSet := one 26,
        codeSet := one 27, toneOn := two 28, toneGap := two 30, flashOpen := two 32, flashGuard := two 34, firstDelay := two 36 }) ∧
  (∀ w : ProfileWire, w.clamped =
    { openProt := max 1 (min 64 w.openProt), closeProt := max 1 (min 64 w.closeProt), seizeMin := max 10 (min 500 w.seizeMin),
      pulseMin := max 10 (min 100 w.pulseMin), pulseMax := max 40 (min 200 w.pulseMax), flashMin := max 50 (min 1000 w.flashMin),
      flashMax := max 100 (min 2000 w.flashMax), endFirst := max 40 (min 1000 w.endFirst), endMin := max 30 (min 500 w.endMin),
      endMax := max 60 (min 1000 w.endMax), endMult := max 8 (min 64 w.endMult), endFixed := min 1 w.endFixed,
      ratioMin := max 20 (min 80 w.ratioMin), ratioMax := max 30 (min 90 w.ratioMax), speedMin := max 40 (min 200 w.speedMin),
      speedMax := max 50 (min 250 w.speedMax), dialIdle := max 1000 (min 30000 w.dialIdle), xlatSet := min 7 w.xlatSet,
      codeSet := w.codeSet, toneOn := max 30 (min 200 w.toneOn), toneGap := max 30 (min 200 w.toneGap),
      flashOpen := max 50 (min 1000 w.flashOpen), flashGuard := max 50 (min 2000 w.flashGuard),
      firstDelay := min 3000 w.firstDelay }) ∧
  (∀ (w : ProfileWire) (c : Option (Fin 4)), w.toProfile c =
    { openProt := w.openProt, closeProt := w.closeProt, seizeMin := w.seizeMin, pulseMin := w.pulseMin, pulseMax := w.pulseMax,
      flashMin := w.flashMin, flashMax := w.flashMax, endFirst := w.endFirst, endMin := w.endMin, endMax := w.endMax,
      endMult := w.endMult, endFixed := decide (w.endFixed = 1), ratioMin := w.ratioMin, ratioMax := w.ratioMax,
      speedMin := w.speedMin, speedMax := w.speedMax, dialIdle := w.dialIdle, xlatSet := Fin.ofNat 8 w.xlatSet, codeSet := c,
      toneOn := w.toneOn, toneGap := w.toneGap, flashOpen := w.flashOpen, flashGuard := w.flashGuard,
      firstDelay := w.firstDelay }) ∧
  ∀ (s : State) (tag b : Byte) (record : List Byte) (w : ProfileWire), s.ready → record.length = 38 →
    w = ProfileWire.ofOctets record →
    (8 ≤ b.toNat → exec (.profileWrite tag (b :: record)) s = .next (s.refusedBy tag 0x07 .range)) ∧
    (b.toNat < 8 → 4 ≤ w.codeSet → w.codeSet ≠ 255 →
      exec (.profileWrite tag (b :: record)) s = .next (s.refusedBy tag 0x07 .value)) ∧
    ∀ (k : Fin 8) (c : Option (Fin 4)), b = octet k.val →
      (w.codeSet = 255 ∧ c = none ∨ ∃ j : Fin 4, w.codeSet = j.val ∧ c = some j) →
      ((w.clamped.toProfile c).ordered = false →
        exec (.profileWrite tag (b :: record)) s = .next (s.refusedBy tag 0x07 .order)) ∧
      ((w.clamped.toProfile c).ordered = true → exec (.profileWrite tag (b :: record)) s = .next
        ({ s with profiles := vmod s.profiles k fun _ => w.clamped.toProfile c }.replied tag 0x07
          (.ack (w.clamped ≠ w) false (.profile k (w.clamped.toProfile c)))))

/-- R1, R174: the layouts lose nothing: a frame and its slots, an entry of each kind and its octets, a profile in range and a part
configuration in range and their records, and the cursor, read back as what was written. R1, R132, R166, R169, R171, R175 and chapter 12:
the slots of a frame and their bits in time, and the octets of replies, refusals, notices, of the profile, line and part records, of an
entry of each kind, of the cursor, and of every report and every result. -/
def Obligations.LayoutsReadBack : Prop :=
  ((∀ f : Frame, Frame.ofSlots f.toSlots = f) ∧ (∀ w : Slots, (Frame.ofSlots w).toSlots = w) ∧
   (∀ v : TransValue, transOfCode v.code = some v) ∧
   (∀ e : CodeEntry, e.valid → e.octets.length = 9 ∧ codeEntryOf e.octets = some e) ∧
   (∀ t : ToneEntry, t.fLow < 65536 → t.fHigh < 65536 → t.aLow < 65536 → t.aHigh < 65536 →
     t.octets.length = 8 ∧ toneEntryOf t.octets = t) ∧
   (∀ p : Profile, p.inRange → p.octets.length = 38 ∧
     ((ProfileWire.ofOctets p.octets).clamped = ProfileWire.ofOctets p.octets) ∧
     codeSetOfCode (ProfileWire.ofOctets p.octets).codeSet = some p.codeSet ∧
     (ProfileWire.ofOctets p.octets).toProfile p.codeSet = p) ∧
   (∀ c : PartConfig, c.inRange → c.octets.length = 9 ∧ PartConfig.ofOctets c.octets = c) ∧
   ∀ c : Cursor, c.offset ≤ c.table.size → ∃ kind set page offset auto : Byte, c.octets = [kind, set, page, offset, auto] ∧
     tableOf kind set = .ok c.table ∧ pageOfCode page = some c.page ∧ offset.toNat = c.offset ∧ auto.getLsbD 0 = c.autoIncrement) ∧
  ((∀ f : Frame, f.toSlots.get 0 = f.marker ∧
     (f.toSlots.get 1).extractLsb' 8 8 = f.mgmtHigh ∧ (f.toSlots.get 1).extractLsb' 0 8 = f.mgmtLow ∧
     ∀ (n : LineId) (w : SlotWord), w = f.toSlots.get ⟨n.val + 2, by omega⟩ →
       w.extractLsb' 2 14 = (f.channels.get n).voice ∧ w.getLsbD 1 = (f.channels.get n).a ∧ w.getLsbD 0 = (f.channels.get n).b) ∧
   (∀ w : SlotWord, (slotBits w).length = 16 ∧ ∀ i, i < 16 → (slotBits w)[i]? = some (w.getLsbD (15 - i)))) ∧
  ((∀ p : Profile, p.octets =
     [octet p.openProt, octet p.closeProt, octet (p.seizeMin / 256), octet p.seizeMin, octet (p.pulseMin / 256), octet p.pulseMin,
       octet (p.pulseMax / 256), octet p.pulseMax, octet (p.flashMin / 256), octet p.flashMin, octet (p.flashMax / 256),
       octet p.flashMax, octet (p.endFirst / 256), octet p.endFirst, octet (p.endMin / 256), octet p.endMin, octet (p.endMax / 256),
       octet p.endMax, octet p.endMult, if p.endFixed then 1 else 0, octet p.ratioMin, octet p.ratioMax, octet p.speedMin,
       octet p.speedMax, octet (p.dialIdle / 256), octet p.dialIdle, octet p.xlatSet.val,
       match p.codeSet with | none => 0xFF | some k => octet k.val,
       octet (p.toneOn / 256), octet p.toneOn, octet (p.toneGap / 256), octet p.toneGap, octet (p.flashOpen / 256),
       octet p.flashOpen, octet (p.flashGuard / 256), octet p.flashGuard, octet (p.firstDelay / 256), octet p.firstDelay]) ∧
   (∀ c : PartConfig, c.octets =
     [octet c.fwdProt, octet c.backProt, octet (c.lossHold / 256), octet c.lossHold, octet (c.qualWindow / 256), octet c.qualWindow,
       octet c.qualLimit, octet c.rejLimit, octet c.partMask.toNat]) ∧
   (∀ v : TransValue, v.code = match v with | .symbol y => octet y.val | .ignore => 0x10 | .flash => 0x11 | .reject => 0x12) ∧
   (∀ t : ToneEntry, t.octets = [octet (t.fLow / 256), octet t.fLow, octet (t.fHigh / 256), octet t.fHigh, octet (t.aLow / 256),
     octet t.aLow, octet (t.aHigh / 256), octet t.aHigh]) ∧
   (∀ e : CodeEntry, e.octets =
     [octet ((if e.isEnd then 128 else 0) + (if e.notify then 64 else 0) +
         (match e.action with | none => 0 | some .pass => 1 | some .capture => 2 | some .substitute => 3)),
       octet (16 * e.code.length + e.replacement.length)] ++ symbolOctets 3 e.code ++ symbolOctets 4 e.replacement) ∧
   CodeEntry.octets ⟨true, [], none, false, []⟩ = [0x80, 0, 0, 0, 0, 0, 0, 0, 0] ∧
   (∀ (size : Nat) (ys : List Symbol), symbolOctets size ys =
     (List.range size).map fun i => octet (16 * (ys.getD (2 * i) 0).val + (ys.getD (2 * i + 1) 0).val)) ∧
   (∀ (v : TransValue) (e : CodeEntry) (t : ToneEntry),
     (Entry.trans v).octets = [v.code] ∧ (Entry.code e).octets = e.octets ∧ (Entry.tone t).octets = t.octets) ∧
   (∀ (g : Page) (o : Nat) (a : Bool) (c : Byte), c = (match g with | .a => 0 | .b => 1) →
     (∀ k, Cursor.octets ⟨.trans k, g, o, a⟩ = [0, octet k.val, c, octet o, if a then 1 else 0]) ∧
     (∀ k, Cursor.octets ⟨.code k, g, o, a⟩ = [1, octet k.val, c, octet o, if a then 1 else 0]) ∧
     Cursor.octets ⟨.tone, g, o, a⟩ = [2, 0, c, octet o, if a then 1 else 0]) ∧
   (∀ v : Nat, (octet v).toNat = v % 256)) ∧
  ((∀ (tag kind : Byte) (clamped deferred f : Bool) (r : Result),
     (Reply.mk tag kind (.ack clamped deferred r) f).body =
       [0xA0, tag, kind, octet ((if clamped then 1 else 0) + (if deferred then 2 else 0))] ++ r.octets) ∧
   (∀ (tag kind : Byte) (f : Bool) (c : RefusalCode),
     (Reply.mk tag kind (.refuse c) f).body = [0xA1, tag, kind, match c with
       | .format => 0x01 | .unknown => 0x02 | .range => 0x03 | .value => 0x04 | .order => 0x05 | .active => 0x06
       | .bound => 0x07 | .locked => 0x08 | .busy => 0x09 | .nocall => 0x0A]) ∧
   ∀ (members : List LineId) (part : Bool), ∃ b0 b1 b2 b3 b4 b5 : Byte,
     noticeBody members part = [0xA2, 0x00, b0, b1, b2, b3, b4, b5, if part then 1 else 0] ∧
     ∀ n : LineId, ([b0, b1, b2, b3, b4, b5].getD (n.val / 8) 0).getLsbD (n.val % 8) = decide (n ∈ members)) ∧
  ((∀ c : LineConfig, c.octets =
     [match c.mode with | .convert => 0 | .pass => 1 | .parked => 2,
       match c.pendingMode with | none => 0xFF | some .convert => 0 | some .pass => 1 | some .parked => 2,
       octet c.profile.val, octet (c.eventMask.toNat / 256), octet c.eventMask.toNat, if c.lineMute then 1 else 0,
       octet (c.endOverride.getD 0 / 256), octet (c.endOverride.getD 0),
       match c.meterMode with | .resetOnRead => 0 | .hold => 1]) ∧
   (∀ r : EmitterReport, r.octets =
     [octet r.state,
       octet ((if r.hold then 1 else 0) + (if r.firstWait.isSome then 2 else 0) +
         (match r.slot with | .empty => 0 | .waiting => 4 | .emitting => 8)),
       octet (r.firstWait.getD 0 / 256), octet (r.firstWait.getD 0), octet r.waiting]) ∧
   (∀ e : EmitterState, e.code = match e with | .quiet => 0 | .tone _ => 1 | .gap _ => 2 | .flashOut _ _ => 3 | .guard _ => 4) ∧
   (∀ d : Decoder, d.code = match d with
     | .idle => 0 | .seizing => 1 | .inCall (.closed .offhook) _ => 2 | .inCall (.closed .indigit) _ => 3
     | .inCall (.closed .discard) _ => 4 | .inCall (.opened _) _ => 5 | .fault => 6) ∧
   (∀ r : VoiceReport, r.octets =
     [octet ((if r.hook then 1 else 0) + (if r.fault then 2 else 0) +
         (match r.mute with | .passing => 0 | .pending _ => 4 | .muted => 8)),
       octet ((if r.sources.a then 1 else 0) + (if r.sources.b then 2 else 0) + (if r.sources.c then 4 else 0) +
         (if r.sources.d then 8 else 0) + (if r.sources.e then 16 else 0))]) ∧
   ∀ r : LineReport, r.octets =
     [octet r.line.val, octet (r.events.toNat / 256), octet r.events.toNat,
       match r.rejectReason with | none => 0 | some .overlong => 1 | some .malformed => 2 | some .table => 3,
       match r.mode with | .convert => 0 | .pass => 1 | .parked => 2,
       match r.pendingMode with | none => 0xFF | some .convert => 0 | some .pass => 1 | some .parked => 2,
       octet r.decoder, octet r.pulses, octet ((if r.loop = .closed then 1 else 0) + (if r.fault then 2 else 0))] ++
     r.emitter.octets ++ r.voice.octets) ∧
  ((∀ (flags : PartEventSet) (checks discarded : Nat) (lu sd : AlignState), (Result.part flags checks discarded lu sd).octets =
     [octet flags.toNat, octet (checks / 256), octet checks, octet (discarded / 256), octet discarded] ++
     [lu, sd].map fun a => octet (match a with | .hunt => 0 | .confirm => 1 | .locked => 2 | .flywheel => 3)) ∧
   Result.identity.octets = [0x0B, 0x7A, 0x12, 0xFC, 1, 48, 8, 8, 20, 4, 16, 16, 16, 4] ∧
   (∀ (c : PartConfig) (r : LineReport) (u : Cursor) (e : EmitterReport), (Result.partConfig c).octets = c.octets ∧
     (Result.lineReport r).octets = r.octets ∧ (Result.cursor u).octets = u.octets ∧ (Result.emitter e).octets = e.octets) ∧
   (∀ (n : LineId) (c : LineConfig) (k : Fin 8) (p : Profile) (o : Nat),
     (Result.lineConfig n c).octets = octet n.val :: c.octets ∧ (Result.profile k p).octets = octet k.val :: p.octets ∧
     (Result.cursorOffset o).octets = [octet o] ∧ Result.nothing.octets = []) ∧
   (∀ (es : List Entry) (o i bound : Nat) (active : Bool) (x y : Entry),
     (Result.entries es (some (active, bound)) o).octets =
       es.flatMap Entry.octets ++ [if active then 1 else 0, octet bound, octet o] ∧
     (Result.entries es none o).octets = es.flatMap Entry.octets ++ [octet o] ∧
     (Result.compared none o).octets = [0, octet o] ∧
     (Result.compared (some (i, x, y)) o).octets = [1, octet o, octet i] ++ x.octets ++ y.octets ∧
     (Result.clearCheck none).octets = [0] ∧ (Result.clearCheck (some (i, x))).octets = [1, octet i] ++ x.octets) ∧
   (∀ (locked : Bool) (a b : Nat), (Result.setState .a locked a b).octets = [0, if locked then 1 else 0, octet a, octet b] ∧
     (Result.setState .b locked a b).octets = [1, if locked then 1 else 0, octet a, octet b]) ∧
   ((Result.capture none).octets = [0, 0, 0, 0, 0, 0, 0] ∧ ∀ r : CaptureRecord, r.code.length ≤ 6 →
     (Result.capture (some r)).octets = [1, octet r.offset, octet r.code.length] ++ symbolOctets 3 r.code ++ [octet r.overwrites]) ∧
   ∀ (c : Counters) (last : Option Counters) (extremes : Option Extremes),
     (Result.quality ⟨c, last, extremes⟩).octets = c.octets ++
       (match last with | none => List.replicate 17 0 | some l => 1 :: l.octets) ++
       (match extremes with
         | none => List.replicate 5 0
         | some e => [1, octet (e.slowest / 256), octet e.slowest, octet (e.fastest / 256), octet e.fastest]) ∧
     c.octets = [c.digitsEnded, c.pulses, c.distorted, c.glitches, c.abortedRuns, c.rejected, c.speedOut, c.falseSeizures].flatMap
       fun v => [octet (v / 256), octet v])

/-- R170: an accepted CURSOR-SET replaces all five fields and is acknowledged with the cursor; a kind or page that is none is refused
VALUE, and then a set or an offset outside the kind's range RANGE. -/
def Obligations.TheCursorIsSet : Prop :=
  (∀ (s : State) (tag : Byte) (c : Cursor), s.ready → c.offset ≤ c.table.size →
    exec (.cursorSet tag c.octets) s = .next ({ s with cursor := c }.acked tag 0x09 (.cursor c))) ∧
  (∀ k, (TableRef.trans k).size = 20) ∧ (∀ k, (TableRef.code k).size = 16) ∧ TableRef.tone.size = 16 ∧
  ∀ (s : State) (tag kind set page offset auto : Byte), s.ready →
    (2 < kind.toNat ∨ 1 < page.toNat →
      exec (.cursorSet tag [kind, set, page, offset, auto]) s = .next (s.refusedBy tag 0x09 .value)) ∧
    (page.toNat ≤ 1 → kind = 0 ∧ (8 ≤ set.toNat ∨ 20 < offset.toNat) ∨ kind = 1 ∧ (4 ≤ set.toNat ∨ 16 < offset.toNat) ∨
        kind = 2 ∧ (1 ≤ set.toNat ∨ 16 < offset.toNat) →
      exec (.cursorSet tag [kind, set, page, offset, auto]) s = .next (s.refusedBy tag 0x09 .range))

/-- R89, R90, R100, R103, R132, R133, R174: a TABLE-WRITE of any fitting length, whatever its entries hold, is refused LOCKED on a locked
set, then ACTIVE on an ACTIVE page, then BOUND on a bound page; only then VALUE for an entry that is no value, wherever it stands, then RANGE
for a span that runs past the end; an accepted one writes its entries, as the kind takes them, from the cursor's offset onward and nothing
else, and moves the cursor if auto-increment is set. A tone table knows none of the first four checks. A code entry carried with END set is
the cleared value whatever its other octets hold; one with END clear is no value for a wrong action or length, and otherwise its fields, what
stands beyond its lists passed over. R132, R133: a tone entry's frequencies are clamped to 200 to 3000 and its amplitudes to 0 to 4095, each
to the nearer bound. -/
def Obligations.TableWritesStoreTheirEntries : Prop :=
  (∀ (s : State) (tag : Byte) (k : Fin 8) (ps : List Byte), s.ready → s.cursor.table = .trans k → 1 ≤ ps.length → ps.length ≤ 20 →
    ((s.xlat.get k).locked = true → exec (.tableWrite tag ps) s = .next (s.refusedBy tag 0x0A .locked)) ∧
    ((s.xlat.get k).locked = false →
      ((s.xlat.get k).active = s.cursor.page → exec (.tableWrite tag ps) s = .next (s.refusedBy tag 0x0A .active)) ∧
      ((s.xlat.get k).active ≠ s.cursor.page →
        (0 < (s.xlat.get k).bound s.cursor.page → exec (.tableWrite tag ps) s = .next (s.refusedBy tag 0x0A .bound)) ∧
        ((s.xlat.get k).bound s.cursor.page = 0 →
          ((∃ b ∈ ps, 0x12 < b.toNat) → exec (.tableWrite tag ps) s = .next (s.refusedBy tag 0x0A .value)) ∧
          ∀ (es : List TransValue) (o : Nat), ps = es.map TransValue.code →
            o = (if s.cursor.autoIncrement then s.cursor.offset + es.length else s.cursor.offset) →
            (20 < s.cursor.offset + es.length → exec (.tableWrite tag ps) s = .next (s.refusedBy tag 0x0A .range)) ∧
            (s.cursor.offset + es.length ≤ 20 → exec (.tableWrite tag ps) s = .next
              ({ s with
                xlat := vmod s.xlat k fun p => p.setEntries s.cursor.page (vwrite (p.entries s.cursor.page) s.cursor.offset es)
                cursor := { s.cursor with offset := o } }.acked tag 0x0A (.cursorOffset o))))))) ∧
  (∀ (s : State) (tag : Byte) (k : Fin 4) (ps : List Byte), s.ready → s.cursor.table = .code k → 9 ≤ ps.length → ps.length ≤ 54 →
    ps.length % 9 = 0 →
    ((s.code.get k).locked = true → exec (.tableWrite tag ps) s = .next (s.refusedBy tag 0x0A .locked)) ∧
    ((s.code.get k).locked = false →
      ((s.code.get k).active = s.cursor.page → exec (.tableWrite tag ps) s = .next (s.refusedBy tag 0x0A .active)) ∧
      ((s.code.get k).active ≠ s.cursor.page →
        (0 < (s.code.get k).bound s.cursor.page → exec (.tableWrite tag ps) s = .next (s.refusedBy tag 0x0A .bound)) ∧
        ((s.code.get k).bound s.cursor.page = 0 →
          ∀ bss : List (List Byte), ps = bss.flatten → (∀ bs ∈ bss, bs.length = 9) →
            ((∃ bs ∈ bss, codeEntryOf bs = none) → exec (.tableWrite tag ps) s = .next (s.refusedBy tag 0x0A .value)) ∧
            ∀ (es : List CodeEntry) (o : Nat), bss.map codeEntryOf = es.map some →
              o = (if s.cursor.autoIncrement then s.cursor.offset + es.length else s.cursor.offset) →
              (16 < s.cursor.offset + es.length → exec (.tableWrite tag ps) s = .next (s.refusedBy tag 0x0A .range)) ∧
              (s.cursor.offset + es.length ≤ 16 → exec (.tableWrite tag ps) s = .next
                ({ s with
                  code := vmod s.code k fun p => p.setEntries s.cursor.page (vwrite (p.entries s.cursor.page) s.cursor.offset es)
                  cursor := { s.cursor with offset := o } }.acked tag 0x0A (.cursorOffset o))))))) ∧
  (∀ bs : List Byte, bs.length = 9 →
    (128 ≤ numAt bs 0 → codeEntryOf bs = some ⟨true, [], none, false, []⟩) ∧
    (numAt bs 0 < 128 →
      (numAt bs 0 % 4 = 0 ∨ numAt bs 1 / 16 = 0 ∨ 6 < numAt bs 1 / 16 ∨ 8 < numAt bs 1 % 16 → codeEntryOf bs = none) ∧
      (numAt bs 0 % 4 ≠ 0 → numAt bs 1 / 16 ≠ 0 → numAt bs 1 / 16 ≤ 6 → numAt bs 1 % 16 ≤ 8 → codeEntryOf bs = some
        { isEnd := false
          code := (((bs.drop 2).take 3).flatMap fun b => [Fin.ofNat 16 (b.toNat / 16), Fin.ofNat 16 b.toNat]).take (numAt bs 1 / 16)
          action := some (if numAt bs 0 % 4 = 1 then .pass else if numAt bs 0 % 4 = 2 then .capture else .substitute)
          notify := (bs.getD 0 0).getLsbD 6
          replacement :=
            ((bs.drop 5).flatMap fun b => [Fin.ofNat 16 (b.toNat / 16), Fin.ofNat 16 b.toNat]).take (numAt bs 1 % 16) }))) ∧
  (∀ (s : State) (tag : Byte) (es : List ToneEntry) (o : Nat), s.ready → s.cursor.table = .tone → 1 ≤ es.length →
    es.length ≤ 7 → (∀ e ∈ es, e.fLow < 65536 ∧ e.fHigh < 65536 ∧ e.aLow < 65536 ∧ e.aHigh < 65536) →
    o = (if s.cursor.autoIncrement then s.cursor.offset + es.length else s.cursor.offset) →
    (16 < s.cursor.offset + es.length →
      exec (.tableWrite tag (es.flatMap ToneEntry.octets)) s = .next (s.refusedBy tag 0x0A .range)) ∧
    (s.cursor.offset + es.length ≤ 16 → exec (.tableWrite tag (es.flatMap ToneEntry.octets)) s = .next
      ({ s with
        tones := vwrite s.tones s.cursor.offset (es.map ToneEntry.clamped)
        cursor := { s.cursor with offset := o } }.replied tag 0x0A
          (.ack (∃ e ∈ es, e.clamped ≠ e) false (.cursorOffset o))))) ∧
  (∀ e : ToneEntry, e.clamped =
    ⟨max 200 (min 3000 e.fLow), max 200 (min 3000 e.fHigh), min 4095 e.aLow, min 4095 e.aHigh⟩) ∧
  ∀ {α : Type} {size : Nat} (v : Vector α size) (o : Nat) (es : List α) (j : Fin size), o + es.length ≤ size →
    (vwrite v o es).get j = if o ≤ j.val then es.getD (j.val - o) (v.get j) else v.get j

/-- R91, R92, R103, R104, R133, R165: TABLE-READ is acknowledged with the entries from the cursor's offset onward, the page's role and
bound count, and the offset, and is refused LOCKED, then RANGE, then FORMAT for more than a reply holds: 20 translation, 6 code or 7 tone
entries. TABLE-COMPARE is refused LOCKED, then VALUE for an entry that is no value, then RANGE, and answers MATCH, or MISMATCH with the
first difference, against the entries as their kind takes them: those of a tone table clamped, and CLAMPED with them. Neither changes
anything but the cursor and the replies. -/
def Obligations.TablesAreReadAndCompared : Prop :=
  (∀ (s : State) (tag b : Byte) (o : Nat), s.ready →
    o = (if s.cursor.autoIncrement then s.cursor.offset + b.toNat else s.cursor.offset) →
    (s.cursorReadRefusal = some .locked → exec (.tableRead tag [b]) s = .next (s.refusedBy tag 0x0B .locked)) ∧
    (s.cursorReadRefusal = none →
      (b = 0 ∨ s.cursor.table.size < s.cursor.offset + b.toNat →
        exec (.tableRead tag [b]) s = .next (s.refusedBy tag 0x0B .range)) ∧
      (b ≠ 0 → s.cursor.offset + b.toNat ≤ s.cursor.table.size →
        (s.cursor.table.mostRead < b.toNat → exec (.tableRead tag [b]) s = .next (s.refusedBy tag 0x0B .format)) ∧
        (b.toNat ≤ s.cursor.table.mostRead → exec (.tableRead tag [b]) s = .next
          ({ s with cursor := { s.cursor with offset := o } }.acked tag 0x0B
            (.entries ((s.cursorEntries.drop s.cursor.offset).take b.toNat) s.cursorPageState o)))))) ∧
  ((∀ k, (TableRef.trans k).size = 20 ∧ (TableRef.trans k).mostRead = 20) ∧
   (∀ k, (TableRef.code k).size = 16 ∧ (TableRef.code k).mostRead = 6) ∧ TableRef.tone.size = 16 ∧ TableRef.tone.mostRead = 7) ∧
  (∀ (s : State) (tag : Byte) (ps : List Byte) (es : List Entry) (clamped : Bool), s.ready → s.cursor.table.carries ps es clamped →
    (s.cursorReadRefusal = some .locked → exec (.tableCompare tag ps) s = .next (s.refusedBy tag 0x0C .locked)) ∧
    (s.cursorReadRefusal = none →
      (s.cursor.table.size < s.cursor.offset + es.length →
        exec (.tableCompare tag ps) s = .next (s.refusedBy tag 0x0C .range)) ∧
      (s.cursor.offset + es.length ≤ s.cursor.table.size →
        ((s.cursorEntries.drop s.cursor.offset).take es.length = es → ∀ o,
          o = (if s.cursor.autoIncrement then s.cursor.offset + es.length else s.cursor.offset) →
          exec (.tableCompare tag ps) s = .next
            ({ s with cursor := { s.cursor with offset := o } }.replied tag 0x0C (.ack clamped false (.compared none o)))) ∧
        ∀ (i o : Nat) (x y : Entry), es[i]? = some x → s.cursorEntries[s.cursor.offset + i]? = some y → x ≠ y →
          (s.cursorEntries.drop s.cursor.offset).take i = es.take i →
          o = (if s.cursor.autoIncrement then s.cursor.offset + i + 1 else s.cursor.offset) →
          exec (.tableCompare tag ps) s = .next
            ({ s with cursor := { s.cursor with offset := o } }.replied tag 0x0C
              (.ack clamped false (.compared (some (s.cursor.offset + i, y, x)) o)))))) ∧
  (∀ (s : State) (tag : Byte) (ps : List Byte), s.ready → s.cursor.table.carriesNoValue ps →
    (s.cursorReadRefusal = some .locked → exec (.tableCompare tag ps) s = .next (s.refusedBy tag 0x0C .locked)) ∧
    (s.cursorReadRefusal = none → exec (.tableCompare tag ps) s = .next (s.refusedBy tag 0x0C .value))) ∧
  (∀ (s : State) (k : Fin 8), s.cursor.table = .trans k →
    s.cursorReadRefusal = (if (s.xlat.get k).locked then some .locked else none) ∧
    s.cursorEntries = ((s.xlat.get k).entries s.cursor.page).toList.map .trans ∧
    s.cursorPageState = some (decide ((s.xlat.get k).active = s.cursor.page), (s.xlat.get k).bound s.cursor.page)) ∧
  (∀ (s : State) (k : Fin 4), s.cursor.table = .code k →
    s.cursorReadRefusal = (if (s.code.get k).locked then some .locked else none) ∧
    s.cursorEntries = ((s.code.get k).entries s.cursor.page).toList.map .code ∧
    s.cursorPageState = some (decide ((s.code.get k).active = s.cursor.page), (s.code.get k).bound s.cursor.page)) ∧
  ∀ s : State, s.cursor.table = .tone →
    s.cursorReadRefusal = none ∧ s.cursorEntries = s.tones.toList.map .tone ∧ s.cursorPageState = none

/-- R89, R93, R103, R134: TABLE-CLEAR, once past the checks for a locked set, an ACTIVE page and a bound page, sets the whole page the
cursor names to the cleared value, and for TONE, which has none of these checks, the whole table to its power-on values, and leaves
the cursor. R94: TABLE-CLEARCHECK, refused on a locked set, answers CLEAR, or the lowest entry that is not cleared, and changes
nothing. -/
def Obligations.TablesAreClearedAndChecked : Prop :=
  (∀ (s : State) (tag : Byte) (k : Fin 8), s.ready → s.cursor.table = .trans k →
    ((s.xlat.get k).locked = true → exec (.tableClear tag []) s = .next (s.refusedBy tag 0x0D .locked) ∧
      exec (.tableClearcheck tag []) s = .next (s.refusedBy tag 0x0E .locked)) ∧
    ((s.xlat.get k).locked = false →
      ((s.xlat.get k).active = s.cursor.page → exec (.tableClear tag []) s = .next (s.refusedBy tag 0x0D .active)) ∧
      ((s.xlat.get k).active ≠ s.cursor.page → 0 < (s.xlat.get k).bound s.cursor.page →
        exec (.tableClear tag []) s = .next (s.refusedBy tag 0x0D .bound)) ∧
      ((s.xlat.get k).active ≠ s.cursor.page → (s.xlat.get k).bound s.cursor.page = 0 →
        exec (.tableClear tag []) s = .next
          ({ s with xlat := vmod s.xlat k fun p => p.setEntries s.cursor.page (Vector.replicate 20 .reject) }.acked
            tag 0x0D .nothing)) ∧
      ((∀ j, ((s.xlat.get k).entries s.cursor.page).get j = .reject) →
        exec (.tableClearcheck tag []) s = .next (s.acked tag 0x0E (.clearCheck none))) ∧
      ∀ j : Fin 20, ((s.xlat.get k).entries s.cursor.page).get j ≠ .reject →
        (∀ i, i < j → ((s.xlat.get k).entries s.cursor.page).get i = .reject) →
        exec (.tableClearcheck tag []) s = .next
          (s.acked tag 0x0E (.clearCheck (some (j.val, .trans (((s.xlat.get k).entries s.cursor.page).get j))))))) ∧
  (∀ (s : State) (tag : Byte) (k : Fin 4), s.ready → s.cursor.table = .code k →
    ((s.code.get k).locked = true → exec (.tableClear tag []) s = .next (s.refusedBy tag 0x0D .locked) ∧
      exec (.tableClearcheck tag []) s = .next (s.refusedBy tag 0x0E .locked)) ∧
    ((s.code.get k).locked = false →
      ((s.code.get k).active = s.cursor.page → exec (.tableClear tag []) s = .next (s.refusedBy tag 0x0D .active)) ∧
      ((s.code.get k).active ≠ s.cursor.page → 0 < (s.code.get k).bound s.cursor.page →
        exec (.tableClear tag []) s = .next (s.refusedBy tag 0x0D .bound)) ∧
      ((s.code.get k).active ≠ s.cursor.page → (s.code.get k).bound s.cursor.page = 0 →
        exec (.tableClear tag []) s = .next
          ({ s with
            code := vmod s.code k fun p => p.setEntries s.cursor.page (Vector.replicate 16 ⟨true, [], none, false, []⟩) }.acked
              tag 0x0D .nothing)) ∧
      ((∀ j, ((s.code.get k).entries s.cursor.page).get j = ⟨true, [], none, false, []⟩) →
        exec (.tableClearcheck tag []) s = .next (s.acked tag 0x0E (.clearCheck none))) ∧
      ∀ j : Fin 16, ((s.code.get k).entries s.cursor.page).get j ≠ ⟨true, [], none, false, []⟩ →
        (∀ i, i < j → ((s.code.get k).entries s.cursor.page).get i = ⟨true, [], none, false, []⟩) →
        exec (.tableClearcheck tag []) s = .next
          (s.acked tag 0x0E (.clearCheck (some (j.val, .code (((s.code.get k).entries s.cursor.page).get j))))))) ∧
  ∀ (s : State) (tag : Byte), s.ready → s.cursor.table = .tone →
    exec (.tableClear tag []) s = .next ({ s with tones := State.reset.tones }.acked tag 0x0D .nothing) ∧
    (s.tones = State.reset.tones → exec (.tableClearcheck tag []) s = .next (s.acked tag 0x0E (.clearCheck none))) ∧
    ∀ j : Fin 16, s.tones.get j ≠ State.reset.tones.get j → (∀ i, i < j → s.tones.get i = State.reset.tones.get i) →
      exec (.tableClearcheck tag []) s = .next (s.acked tag 0x0E (.clearCheck (some (j.val, .tone (s.tones.get j)))))

/-- R95 to R98, R105: the set requests refuse a kind other than TRANSLATION and CODE with VALUE and then a set outside its range with
RANGE; SET-SWAP exchanges the roles and SET-LOCK sets the lock, refused LOCKED on a locked set; SET-ERASE clears both pages, unlocks and
makes page A ACTIVE, refused BOUND while a page is bound. Each is acknowledged with the set's state. -/
def Obligations.SetRequestsChangeTheirSet : Prop :=
  (∀ (s : State) (tag : Byte) (k : Fin 8), s.ready →
    ((s.xlat.get k).locked = true → exec (.setSwap tag [0, octet k.val]) s = .next (s.refusedBy tag 0x0F .locked) ∧
      exec (.setLock tag [0, octet k.val]) s = .next (s.refusedBy tag 0x10 .locked)) ∧
    ((s.xlat.get k).locked = false →
      exec (.setSwap tag [0, octet k.val]) s = .next
        ({ s with xlat := vmod s.xlat k fun p => { p with active := p.active.other } }.acked tag 0x0F
          (.setState (s.xlat.get k).active.other false (s.xlat.get k).boundA (s.xlat.get k).boundB)) ∧
      exec (.setLock tag [0, octet k.val]) s = .next
        ({ s with xlat := vmod s.xlat k fun p => { p with locked := true } }.acked tag 0x10
          (.setState (s.xlat.get k).active true (s.xlat.get k).boundA (s.xlat.get k).boundB))) ∧
    (0 < (s.xlat.get k).boundA ∨ 0 < (s.xlat.get k).boundB →
      exec (.setErase tag [0, octet k.val]) s = .next (s.refusedBy tag 0x11 .bound)) ∧
    ((s.xlat.get k).boundA = 0 → (s.xlat.get k).boundB = 0 →
      exec (.setErase tag [0, octet k.val]) s = .next
        ({ s with xlat := vmod s.xlat k fun _ =>
          ⟨Vector.replicate 20 .reject, Vector.replicate 20 .reject, .a, 0, 0, false⟩ }.acked tag 0x11
            (.setState .a false 0 0)))) ∧
  (∀ (s : State) (tag : Byte) (k : Fin 4), s.ready →
    ((s.code.get k).locked = true → exec (.setSwap tag [1, octet k.val]) s = .next (s.refusedBy tag 0x0F .locked) ∧
      exec (.setLock tag [1, octet k.val]) s = .next (s.refusedBy tag 0x10 .locked)) ∧
    ((s.code.get k).locked = false →
      exec (.setSwap tag [1, octet k.val]) s = .next
        ({ s with code := vmod s.code k fun p => { p with active := p.active.other } }.acked tag 0x0F
          (.setState (s.code.get k).active.other false (s.code.get k).boundA (s.code.get k).boundB)) ∧
      exec (.setLock tag [1, octet k.val]) s = .next
        ({ s with code := vmod s.code k fun p => { p with locked := true } }.acked tag 0x10
          (.setState (s.code.get k).active true (s.code.get k).boundA (s.code.get k).boundB))) ∧
    (0 < (s.code.get k).boundA ∨ 0 < (s.code.get k).boundB →
      exec (.setErase tag [1, octet k.val]) s = .next (s.refusedBy tag 0x11 .bound)) ∧
    ((s.code.get k).boundA = 0 → (s.code.get k).boundB = 0 →
      exec (.setErase tag [1, octet k.val]) s = .next
        ({ s with code := vmod s.code k fun _ =>
          ⟨Vector.replicate 16 ⟨true, [], none, false, []⟩, Vector.replicate 16 ⟨true, [], none, false, []⟩, .a, 0, 0,
            false⟩ }.acked tag 0x11 (.setState .a false 0 0)))) ∧
  ∀ (s : State) (tag kind set : Byte), s.ready →
    (2 ≤ kind.toNat → exec (.setSwap tag [kind, set]) s = .next (s.refusedBy tag 0x0F .value) ∧
      exec (.setLock tag [kind, set]) s = .next (s.refusedBy tag 0x10 .value) ∧
      exec (.setErase tag [kind, set]) s = .next (s.refusedBy tag 0x11 .value)) ∧
    (kind = 0 ∧ 8 ≤ set.toNat ∨ kind = 1 ∧ 4 ≤ set.toNat →
      exec (.setSwap tag [kind, set]) s = .next (s.refusedBy tag 0x0F .range) ∧
      exec (.setLock tag [kind, set]) s = .next (s.refusedBy tag 0x10 .range) ∧
      exec (.setErase tag [kind, set]) s = .next (s.refusedBy tag 0x11 .range))

/-- R121, R129, R137: TONE-INSERT fills an empty slot of a line with an open call, refused RANGE, VALUE, NOCALL and BUSY in that order;
EMIT-HOLD sets HOLD and EMIT-RESUME clears it, refused RANGE and NOCALL. Each is acknowledged with the emitter report, which holds the
emitter state, HOLD, FIRST_WAIT with its count, the number of waiting items and the slot. -/
def Obligations.EmitterRequestsActOnCalls : Prop :=
  (∀ (s : State) (tag f : Byte) (n : LineId) (sym : Symbol), s.ready →
    (s.callOf n = none → exec (.toneInsert tag [octet n.val, octet sym.val, f]) s = .next (s.refusedBy tag 0x12 .nocall) ∧
      exec (.emitHold tag [octet n.val]) s = .next (s.refusedBy tag 0x13 .nocall) ∧
      exec (.emitResume tag [octet n.val]) s = .next (s.refusedBy tag 0x14 .nocall)) ∧
    ((s.callOf n).isSome = true →
      ((s.line n).emission.slot.isSome = true →
        exec (.toneInsert tag [octet n.val, octet sym.val, f]) s = .next (s.refusedBy tag 0x12 .busy)) ∧
      ((s.line n).emission.slot = none → ∀ t, t = (s.modLine n fun l =>
          { l with emission := { l.emission with slot := some ⟨sym, f.getLsbD 0, .waiting⟩ } }) →
        exec (.toneInsert tag [octet n.val, octet sym.val, f]) s = .next
          (t.acked tag 0x12 (.emitter (t.line n).emission.report))) ∧
      (∀ t, t = (s.modLine n fun l => { l with emission := { l.emission with hold := true } }) →
        exec (.emitHold tag [octet n.val]) s = .next (t.acked tag 0x13 (.emitter (t.line n).emission.report))) ∧
      ∀ t, t = (s.modLine n fun l => { l with emission := { l.emission with hold := false } }) →
        exec (.emitResume tag [octet n.val]) s = .next (t.acked tag 0x14 (.emitter (t.line n).emission.report)))) ∧
  (∀ e : Emission, e.report.state = e.state.code ∧ e.report.hold = e.hold ∧ e.report.firstWait = e.firstWait ∧ e.report.waiting = e.queue.length ∧
    (e.report.slot = .empty ↔ e.slot = none) ∧ (e.report.slot = .waiting ↔ ∃ y f, e.slot = some ⟨y, f, .waiting⟩) ∧
    (e.report.slot = .emitting ↔ ∃ y f, e.slot = some ⟨y, f, .emitting⟩)) ∧
  ∀ (s : State) (tag b y f : Byte), s.ready →
    (48 ≤ b.toNat → exec (.toneInsert tag [b, y, f]) s = .next (s.refusedBy tag 0x12 .range) ∧
      exec (.emitHold tag [b]) s = .next (s.refusedBy tag 0x13 .range) ∧
      exec (.emitResume tag [b]) s = .next (s.refusedBy tag 0x14 .range)) ∧
    (b.toNat < 48 → 16 ≤ y.toNat → exec (.toneInsert tag [b, y, f]) s = .next (s.refusedBy tag 0x12 .value))

/-! ## Sample arrivals -/

/-- R41, R47, R54, R63, R67, R68: one sample arrival of a line. On a PASS line the L sample moves the filter and a confirmed OPEN makes
the line idle; on a PARKED line it moves the filter only. On a CONVERT line the filter's result is taken first, an aborted run counted or
a transition acted on in the state it finds; then the timer of the state after it, so that a glitch which fills the digit-end threshold
ends its digit at the same arrival; then the dial-idle count of an open call goes on by one, except at the arrival that opened the call or
completed a digit, and while MATCHING it is compared. Then the G sample is taken: F becoming 1 clears any call of a CONVERT line into
FAULT, after all that the loop brought; and last a decoder in FAULT with F at 0 and the loop OPEN is in IDLE, its line taking a pending
mode. That the G sample finds the mode the L sample left is the model's reading (log entry 15). -/
def Obligations.ArrivalsTakeTheirSteps : Prop :=
  (∀ (n : LineId) (s s0 : State) (l : Bool) (r : LoopResult),
    r = ((s.line n).filter.takeLoop (s.profileOf n) l).2 →
    s0 = s.setFilter n ((s.line n).filter.takeLoop (s.profileOf n) l).1 →
    ((s.line n).config.mode = .parked → loopSample n l s = s0) ∧
    ((s.line n).config.mode = .pass → (∀ d, r ≠ .confirmed .opened d) → loopSample n l s = s0) ∧
    ((s.line n).config.mode = .pass → (∃ d, r = .confirmed .opened d) → loopSample n l s = becomeIdle n s0) ∧
    ((s.line n).config.mode = .convert → (s.profileOf n).ordered = true →
      loopSample n l s = laterSteps n (match r with
        | .nothing => ⟨s0, false⟩
        | .aborted => ⟨s0.modLine n fun l => { l with quality := { l.quality with
            current := { l.quality.current with abortedRuns := min 65535 (l.quality.current.abortedRuns + 1) } } }, false⟩
        | .confirmed now d => ⟨(takeTransition n now d s0).state, match (s0.line n).decoder, now with
          | .inCall (.opened .indigit) _, .closed =>
            decide ((s.profileOf n).flashMin * 8 ≤ d ∧ d ≤ (s.profileOf n).flashMax * 8)
          | _, _ => false⟩))) ∧
  (∀ (n : LineId) (s1 s2 : State) (first fresh : Bool) (measured : Nat),
    measured = (s1.line n).filter.age - (s1.line n).filter.run →
    (s2, fresh) = (match (s1.line n).decoder with
      | .seizing => if (s1.profileOf n).seizeMin * 8 ≤ measured then (openCall n s1, true) else (s1, false)
      | .inCall (.opened _) _ => if (s1.profileOf n).flashMax * 8 < measured then (hangUp n s1, false) else (s1, false)
      | .inCall (.closed .indigit) c => match c.threshold with
        | none => (s1, false)
        | some threshold => if threshold ≤ c.makeAcc + measured then (completeDigit n c s1, true) else (s1, false)
      | .inCall (.closed .discard) c => match c.threshold with
        | none => (s1, false)
        | some threshold => if threshold ≤ c.makeAcc + measured then (s1.setDecoder n (.inCall (.closed .offhook) c), false)
          else (s1, false)
      | .inCall (.closed .offhook) _ => (s1, false)
      | .idle => (s1, false)
      | .fault => (s1, false)) →
    laterSteps n ⟨s1, first⟩ = (match (s2.line n).decoder with
      | .inCall st c => if first = true ∨ fresh = true then s2 else
        if c.phase = .matching ∧ (s2.profileOf n).dialIdle * 8 ≤ min 262143 (c.dialIdle + 1)
        then handDialIdle n (s2.setDecoder n (.inCall st { c with dialIdle := min 262143 (c.dialIdle + 1) }))
        else s2.setDecoder n (.inCall st { c with dialIdle := min 262143 (c.dialIdle + 1) })
      | .idle => s2
      | .seizing => s2
      | .fault => s2)) ∧
  (∀ (n : LineId) (s : State) (c : Call) (threshold : Nat), s.confirms n → (s.line n).config.mode = .convert →
    (s.line n).filter.loop = .opened → (s.line n).decoder = .inCall (.opened .indigit) c → c.threshold = some threshold →
    (s.line n).filter.endedLength < (s.profileOf n).pulseMin * 8 →
    threshold ≤ min 65535 (c.makeAcc + (s.line n).filter.endedLength) + ((s.line n).filter.run + 1) →
    loopSample n true s = completeDigit n { c with makeAcc := min 65535 (c.makeAcc + (s.line n).filter.endedLength) }
      (s.modLine n fun l =>
        { l with
          filter := l.filter.turned
          decoder := .inCall (.closed .indigit) { c with makeAcc := min 65535 (c.makeAcc + l.filter.endedLength) }
          quality := { l.quality with
            current := { l.quality.current with glitches := min 65535 (l.quality.current.glitches + 1) } } })) ∧
  (∀ (n : LineId) (s : State) (l g : Bool), arrival n l g s = faultSample n g (loopSample n l s)) ∧
  ∀ (n : LineId) (s t : State) (g : Bool),
    (g = (s.line n).filter.fault → t = s.setFilter n { (s.line n).filter with faultRun := 0 }) →
    (g ≠ (s.line n).filter.fault → (s.line n).filter.faultRun < 15 →
      t = s.setFilter n { (s.line n).filter with faultRun := (s.line n).filter.faultRun + 1 }) →
    (g = true → (s.line n).filter.fault = false → 15 ≤ (s.line n).filter.faultRun →
      t = if (s.line n).config.mode = .convert
        then clearCall n .fault (latch n .faultOn (s.setFilter n { (s.line n).filter with fault := true, faultRun := 0 }))
        else latch n .faultOn (s.setFilter n { (s.line n).filter with fault := true, faultRun := 0 })) →
    (g = false → (s.line n).filter.fault = true → 15 ≤ (s.line n).filter.faultRun →
      t = latch n .faultOff (s.setFilter n { (s.line n).filter with fault := false, faultRun := 0 })) →
    faultSample n g s =
      if (t.line n).decoder = .fault ∧ (t.line n).filter.fault = false ∧ (t.line n).filter.loop = .opened
      then t.modLine n fun l => { l with decoder := .idle, config := l.config.taken }
      else t
end

