-- ==== Sys2Proof/Laws/State.lean ====
section
/-! SUPPORT. One lemma per field per update of State, so that no later proof unfolds a record update. -/

namespace Sys2Proof.Machine

/-! ## Tables of fixed length -/

@[simp] theorem vget_vmod_self {α : Type} {size : Nat} (v : Vector α size) (i : Fin size) (f : α → α) :
    (vmod v i f).get i = f (v.get i) := by
  simp [vmod, Vector.get_eq_getElem]

theorem vget_vmod_other {α : Type} {size : Nat} (v : Vector α size) {i j : Fin size} (f : α → α) (h : j ≠ i) :
    (vmod v i f).get j = v.get j := by
  have : i.val ≠ j.val := fun e => h (Fin.ext e.symm)
  simp [vmod, Vector.get_eq_getElem, Vector.getElem_set_ne, this]

theorem vget_vmod {α : Type} {size : Nat} (v : Vector α size) (i j : Fin size) (f : α → α) :
    (vmod v i f).get j = if j = i then f (v.get i) else v.get j := by
  by_cases h : j = i
  · subst h; simp
  · simp [h, vget_vmod_other v f h]

@[simp] theorem vget_vtab {α : Type} {size : Nat} (f : Fin size → α) (i : Fin size) : (vtab f).get i = f i := by
  simp [vtab, Vector.get_eq_getElem]

/-! ## Lines -/

@[simp] theorem line_modLine_self (s : State) (n : LineId) (f : Line → Line) : (s.modLine n f).line n = f (s.line n) := by
  simp [State.line, State.modLine]

theorem line_modLine_other (s : State) {n m : LineId} (f : Line → Line) (h : m ≠ n) :
    (s.modLine n f).line m = s.line m := by
  simp [State.line, State.modLine, vget_vmod_other _ f h]

theorem line_modLine (s : State) (n m : LineId) (f : Line → Line) :
    (s.modLine n f).line m = if m = n then f (s.line n) else s.line m := by
  simp [State.line, State.modLine, vget_vmod]

theorem setDecoder_eq (s : State) (n : LineId) (d : Decoder) :
    s.setDecoder n d = s.modLine n fun l => { l with decoder := d } := rfl

theorem setFilter_eq (s : State) (n : LineId) (f : Filter) : s.setFilter n f = s.modLine n fun l => { l with filter := f } := rfl

theorem modCall_eq (s : State) (n : LineId) (f : Call → Call) :
    s.modCall n f = s.modLine n fun l => { l with decoder := l.decoder.mapCall f } := rfl

theorem modEmission_eq (s : State) (n : LineId) (f : Emission → Emission) :
    s.modEmission n f = s.modLine n fun l => { l with emission := f l.emission } := rfl

theorem setEmitter_eq (s : State) (n : LineId) (e : EmitterState) :
    s.setEmitter n e = s.modLine n fun l => { l with emission := { l.emission with state := e } } := rfl

theorem modQuality_eq (s : State) (n : LineId) (f : Quality → Quality) :
    s.modQuality n f = s.modLine n fun l => { l with quality := f l.quality } := rfl

/-! ## modLine -/

@[simp] theorem modLine_lu (s : State) (n : LineId) (f : Line → Line) : (s.modLine n f).lu = s.lu := rfl

@[simp] theorem modLine_sd (s : State) (n : LineId) (f : Line → Line) : (s.modLine n f).sd = s.sd := rfl

@[simp] theorem modLine_clock (s : State) (n : LineId) (f : Line → Line) : (s.modLine n f).clock = s.clock := rfl

@[simp] theorem modLine_lossHold (s : State) (n : LineId) (f : Line → Line) : (s.modLine n f).lossHold = s.lossHold := rfl

@[simp] theorem modLine_waiting (s : State) (n : LineId) (f : Line → Line) : (s.modLine n f).waiting = s.waiting := rfl

@[simp] theorem modLine_paced (s : State) (n : LineId) (f : Line → Line) : (s.modLine n f).paced = s.paced := rfl

@[simp] theorem modLine_lastVoice (s : State) (n : LineId) (f : Line → Line) : (s.modLine n f).lastVoice = s.lastVoice := rfl

@[simp] theorem modLine_su (s : State) (n : LineId) (f : Line → Line) : (s.modLine n f).su = s.su := rfl

@[simp] theorem modLine_ld (s : State) (n : LineId) (f : Line → Line) : (s.modLine n f).ld = s.ld := rfl

@[simp] theorem modLine_profiles (s : State) (n : LineId) (f : Line → Line) : (s.modLine n f).profiles = s.profiles := rfl

@[simp] theorem modLine_part (s : State) (n : LineId) (f : Line → Line) : (s.modLine n f).part = s.part := rfl

@[simp] theorem modLine_xlat (s : State) (n : LineId) (f : Line → Line) : (s.modLine n f).xlat = s.xlat := rfl

@[simp] theorem modLine_code (s : State) (n : LineId) (f : Line → Line) : (s.modLine n f).code = s.code := rfl

@[simp] theorem modLine_tones (s : State) (n : LineId) (f : Line → Line) : (s.modLine n f).tones = s.tones := rfl

@[simp] theorem modLine_partEvents (s : State) (n : LineId) (f : Line → Line) : (s.modLine n f).partEvents = s.partEvents := rfl

@[simp] theorem modLine_checkFailures (s : State) (n : LineId) (f : Line → Line) : (s.modLine n f).checkFailures = s.checkFailures := rfl

@[simp] theorem modLine_discardedRequests (s : State) (n : LineId) (f : Line → Line) : (s.modLine n f).discardedRequests = s.discardedRequests := rfl

@[simp] theorem modLine_attention (s : State) (n : LineId) (f : Line → Line) : (s.modLine n f).attention = s.attention := rfl

@[simp] theorem modLine_receiver (s : State) (n : LineId) (f : Line → Line) : (s.modLine n f).receiver = s.receiver := rfl

@[simp] theorem modLine_slot (s : State) (n : LineId) (f : Line → Line) : (s.modLine n f).slot = s.slot := rfl

@[simp] theorem modLine_replies (s : State) (n : LineId) (f : Line → Line) : (s.modLine n f).replies = s.replies := rfl

@[simp] theorem modLine_tx (s : State) (n : LineId) (f : Line → Line) : (s.modLine n f).tx = s.tx := rfl

@[simp] theorem modLine_lastSent (s : State) (n : LineId) (f : Line → Line) : (s.modLine n f).lastSent = s.lastSent := rfl

@[simp] theorem modLine_softReset (s : State) (n : LineId) (f : Line → Line) : (s.modLine n f).softReset = s.softReset := rfl

@[simp] theorem modLine_cursor (s : State) (n : LineId) (f : Line → Line) : (s.modLine n f).cursor = s.cursor := rfl

@[simp] theorem modLine_raceCount (s : State) (n : LineId) (f : Line → Line) : (s.modLine n f).raceCount = s.raceCount := rfl

@[simp] theorem modLine_pending (s : State) (n : LineId) (f : Line → Line) : (s.modLine n f).pending = s.pending := rfl

/-! ## modLineMapped -/

@[simp] theorem modLineMapped_lu (s : State) (n : LineId) (f : Line → Line) : (s.modLineMapped n f).lu = s.lu := rfl

@[simp] theorem modLineMapped_sd (s : State) (n : LineId) (f : Line → Line) : (s.modLineMapped n f).sd = s.sd := rfl

@[simp] theorem modLineMapped_clock (s : State) (n : LineId) (f : Line → Line) : (s.modLineMapped n f).clock = s.clock := rfl

@[simp] theorem modLineMapped_lossHold (s : State) (n : LineId) (f : Line → Line) : (s.modLineMapped n f).lossHold = s.lossHold := rfl

@[simp] theorem modLineMapped_waiting (s : State) (n : LineId) (f : Line → Line) : (s.modLineMapped n f).waiting = s.waiting := rfl

@[simp] theorem modLineMapped_paced (s : State) (n : LineId) (f : Line → Line) : (s.modLineMapped n f).paced = s.paced := rfl

@[simp] theorem modLineMapped_lastVoice (s : State) (n : LineId) (f : Line → Line) : (s.modLineMapped n f).lastVoice = s.lastVoice := rfl

@[simp] theorem modLineMapped_su (s : State) (n : LineId) (f : Line → Line) : (s.modLineMapped n f).su = s.su := rfl

@[simp] theorem modLineMapped_ld (s : State) (n : LineId) (f : Line → Line) : (s.modLineMapped n f).ld = s.ld := rfl

@[simp] theorem modLineMapped_profiles (s : State) (n : LineId) (f : Line → Line) : (s.modLineMapped n f).profiles = s.profiles := rfl

@[simp] theorem modLineMapped_part (s : State) (n : LineId) (f : Line → Line) : (s.modLineMapped n f).part = s.part := rfl

@[simp] theorem modLineMapped_xlat (s : State) (n : LineId) (f : Line → Line) : (s.modLineMapped n f).xlat = s.xlat := rfl

@[simp] theorem modLineMapped_code (s : State) (n : LineId) (f : Line → Line) : (s.modLineMapped n f).code = s.code := rfl

@[simp] theorem modLineMapped_tones (s : State) (n : LineId) (f : Line → Line) : (s.modLineMapped n f).tones = s.tones := rfl

@[simp] theorem modLineMapped_partEvents (s : State) (n : LineId) (f : Line → Line) : (s.modLineMapped n f).partEvents = s.partEvents := rfl

@[simp] theorem modLineMapped_checkFailures (s : State) (n : LineId) (f : Line → Line) : (s.modLineMapped n f).checkFailures = s.checkFailures := rfl

@[simp] theorem modLineMapped_discardedRequests (s : State) (n : LineId) (f : Line → Line) : (s.modLineMapped n f).discardedRequests = s.discardedRequests := rfl

@[simp] theorem modLineMapped_receiver (s : State) (n : LineId) (f : Line → Line) : (s.modLineMapped n f).receiver = s.receiver := rfl

@[simp] theorem modLineMapped_slot (s : State) (n : LineId) (f : Line → Line) : (s.modLineMapped n f).slot = s.slot := rfl

@[simp] theorem modLineMapped_replies (s : State) (n : LineId) (f : Line → Line) : (s.modLineMapped n f).replies = s.replies := rfl

@[simp] theorem modLineMapped_tx (s : State) (n : LineId) (f : Line → Line) : (s.modLineMapped n f).tx = s.tx := rfl

@[simp] theorem modLineMapped_lastSent (s : State) (n : LineId) (f : Line → Line) : (s.modLineMapped n f).lastSent = s.lastSent := rfl

@[simp] theorem modLineMapped_softReset (s : State) (n : LineId) (f : Line → Line) : (s.modLineMapped n f).softReset = s.softReset := rfl

@[simp] theorem modLineMapped_cursor (s : State) (n : LineId) (f : Line → Line) : (s.modLineMapped n f).cursor = s.cursor := rfl

@[simp] theorem modLineMapped_raceCount (s : State) (n : LineId) (f : Line → Line) : (s.modLineMapped n f).raceCount = s.raceCount := rfl

@[simp] theorem modLineMapped_pending (s : State) (n : LineId) (f : Line → Line) : (s.modLineMapped n f).pending = s.pending := rfl

/-! ## bindPages -/

@[simp] theorem bindPages_lu (s : State) (t : TransPage) (c : Option CodePage) : (s.bindPages t c).lu = s.lu := rfl

@[simp] theorem bindPages_sd (s : State) (t : TransPage) (c : Option CodePage) : (s.bindPages t c).sd = s.sd := rfl

@[simp] theorem bindPages_clock (s : State) (t : TransPage) (c : Option CodePage) : (s.bindPages t c).clock = s.clock := rfl

@[simp] theorem bindPages_lossHold (s : State) (t : TransPage) (c : Option CodePage) : (s.bindPages t c).lossHold = s.lossHold := rfl

@[simp] theorem bindPages_waiting (s : State) (t : TransPage) (c : Option CodePage) : (s.bindPages t c).waiting = s.waiting := rfl

@[simp] theorem bindPages_paced (s : State) (t : TransPage) (c : Option CodePage) : (s.bindPages t c).paced = s.paced := rfl

@[simp] theorem bindPages_lastVoice (s : State) (t : TransPage) (c : Option CodePage) : (s.bindPages t c).lastVoice = s.lastVoice := rfl

@[simp] theorem bindPages_su (s : State) (t : TransPage) (c : Option CodePage) : (s.bindPages t c).su = s.su := rfl

@[simp] theorem bindPages_ld (s : State) (t : TransPage) (c : Option CodePage) : (s.bindPages t c).ld = s.ld := rfl

@[simp] theorem bindPages_profiles (s : State) (t : TransPage) (c : Option CodePage) : (s.bindPages t c).profiles = s.profiles := rfl

@[simp] theorem bindPages_part (s : State) (t : TransPage) (c : Option CodePage) : (s.bindPages t c).part = s.part := rfl

@[simp] theorem bindPages_tones (s : State) (t : TransPage) (c : Option CodePage) : (s.bindPages t c).tones = s.tones := rfl

@[simp] theorem bindPages_lines (s : State) (t : TransPage) (c : Option CodePage) : (s.bindPages t c).lines = s.lines := rfl

@[simp] theorem bindPages_partEvents (s : State) (t : TransPage) (c : Option CodePage) : (s.bindPages t c).partEvents = s.partEvents := rfl

@[simp] theorem bindPages_checkFailures (s : State) (t : TransPage) (c : Option CodePage) : (s.bindPages t c).checkFailures = s.checkFailures := rfl

@[simp] theorem bindPages_discardedRequests (s : State) (t : TransPage) (c : Option CodePage) : (s.bindPages t c).discardedRequests = s.discardedRequests := rfl

@[simp] theorem bindPages_attention (s : State) (t : TransPage) (c : Option CodePage) : (s.bindPages t c).attention = s.attention := rfl

@[simp] theorem bindPages_receiver (s : State) (t : TransPage) (c : Option CodePage) : (s.bindPages t c).receiver = s.receiver := rfl

@[simp] theorem bindPages_slot (s : State) (t : TransPage) (c : Option CodePage) : (s.bindPages t c).slot = s.slot := rfl

@[simp] theorem bindPages_replies (s : State) (t : TransPage) (c : Option CodePage) : (s.bindPages t c).replies = s.replies := rfl

@[simp] theorem bindPages_tx (s : State) (t : TransPage) (c : Option CodePage) : (s.bindPages t c).tx = s.tx := rfl

@[simp] theorem bindPages_lastSent (s : State) (t : TransPage) (c : Option CodePage) : (s.bindPages t c).lastSent = s.lastSent := rfl

@[simp] theorem bindPages_softReset (s : State) (t : TransPage) (c : Option CodePage) : (s.bindPages t c).softReset = s.softReset := rfl

@[simp] theorem bindPages_cursor (s : State) (t : TransPage) (c : Option CodePage) : (s.bindPages t c).cursor = s.cursor := rfl

@[simp] theorem bindPages_raceCount (s : State) (t : TransPage) (c : Option CodePage) : (s.bindPages t c).raceCount = s.raceCount := rfl

@[simp] theorem bindPages_pending (s : State) (t : TransPage) (c : Option CodePage) : (s.bindPages t c).pending = s.pending := rfl

/-! ## unbindPages -/

@[simp] theorem unbindPages_lu (s : State) (t : TransPage) (c : Option CodePage) : (s.unbindPages t c).lu = s.lu := rfl

@[simp] theorem unbindPages_sd (s : State) (t : TransPage) (c : Option CodePage) : (s.unbindPages t c).sd = s.sd := rfl

@[simp] theorem unbindPages_clock (s : State) (t : TransPage) (c : Option CodePage) : (s.unbindPages t c).clock = s.clock := rfl

@[simp] theorem unbindPages_lossHold (s : State) (t : TransPage) (c : Option CodePage) : (s.unbindPages t c).lossHold = s.lossHold := rfl

@[simp] theorem unbindPages_waiting (s : State) (t : TransPage) (c : Option CodePage) : (s.unbindPages t c).waiting = s.waiting := rfl

@[simp] theorem unbindPages_paced (s : State) (t : TransPage) (c : Option CodePage) : (s.unbindPages t c).paced = s.paced := rfl

@[simp] theorem unbindPages_lastVoice (s : State) (t : TransPage) (c : Option CodePage) : (s.unbindPages t c).lastVoice = s.lastVoice := rfl

@[simp] theorem unbindPages_su (s : State) (t : TransPage) (c : Option CodePage) : (s.unbindPages t c).su = s.su := rfl

@[simp] theorem unbindPages_ld (s : State) (t : TransPage) (c : Option CodePage) : (s.unbindPages t c).ld = s.ld := rfl

@[simp] theorem unbindPages_profiles (s : State) (t : TransPage) (c : Option CodePage) : (s.unbindPages t c).profiles = s.profiles := rfl

@[simp] theorem unbindPages_part (s : State) (t : TransPage) (c : Option CodePage) : (s.unbindPages t c).part = s.part := rfl

@[simp] theorem unbindPages_tones (s : State) (t : TransPage) (c : Option CodePage) : (s.unbindPages t c).tones = s.tones := rfl

@[simp] theorem unbindPages_lines (s : State) (t : TransPage) (c : Option CodePage) : (s.unbindPages t c).lines = s.lines := rfl

@[simp] theorem unbindPages_partEvents (s : State) (t : TransPage) (c : Option CodePage) : (s.unbindPages t c).partEvents = s.partEvents := rfl

@[simp] theorem unbindPages_checkFailures (s : State) (t : TransPage) (c : Option CodePage) : (s.unbindPages t c).checkFailures = s.checkFailures := rfl

@[simp] theorem unbindPages_discardedRequests (s : State) (t : TransPage) (c : Option CodePage) : (s.unbindPages t c).discardedRequests = s.discardedRequests := rfl

@[simp] theorem unbindPages_attention (s : State) (t : TransPage) (c : Option CodePage) : (s.unbindPages t c).attention = s.attention := rfl

@[simp] theorem unbindPages_receiver (s : State) (t : TransPage) (c : Option CodePage) : (s.unbindPages t c).receiver = s.receiver := rfl

@[simp] theorem unbindPages_slot (s : State) (t : TransPage) (c : Option CodePage) : (s.unbindPages t c).slot = s.slot := rfl

@[simp] theorem unbindPages_replies (s : State) (t : TransPage) (c : Option CodePage) : (s.unbindPages t c).replies = s.replies := rfl

@[simp] theorem unbindPages_tx (s : State) (t : TransPage) (c : Option CodePage) : (s.unbindPages t c).tx = s.tx := rfl

@[simp] theorem unbindPages_lastSent (s : State) (t : TransPage) (c : Option CodePage) : (s.unbindPages t c).lastSent = s.lastSent := rfl

@[simp] theorem unbindPages_softReset (s : State) (t : TransPage) (c : Option CodePage) : (s.unbindPages t c).softReset = s.softReset := rfl

@[simp] theorem unbindPages_cursor (s : State) (t : TransPage) (c : Option CodePage) : (s.unbindPages t c).cursor = s.cursor := rfl

@[simp] theorem unbindPages_raceCount (s : State) (t : TransPage) (c : Option CodePage) : (s.unbindPages t c).raceCount = s.raceCount := rfl

@[simp] theorem unbindPages_pending (s : State) (t : TransPage) (c : Option CodePage) : (s.unbindPages t c).pending = s.pending := rfl

/-! ## setPartFlags -/

@[simp] theorem setPartFlags_lu (s : State) (e : PartEventSet) (p : PartConfig) : (s.setPartFlags e p).lu = s.lu := rfl

@[simp] theorem setPartFlags_sd (s : State) (e : PartEventSet) (p : PartConfig) : (s.setPartFlags e p).sd = s.sd := rfl

@[simp] theorem setPartFlags_clock (s : State) (e : PartEventSet) (p : PartConfig) : (s.setPartFlags e p).clock = s.clock := rfl

@[simp] theorem setPartFlags_lossHold (s : State) (e : PartEventSet) (p : PartConfig) : (s.setPartFlags e p).lossHold = s.lossHold := rfl

@[simp] theorem setPartFlags_waiting (s : State) (e : PartEventSet) (p : PartConfig) : (s.setPartFlags e p).waiting = s.waiting := rfl

@[simp] theorem setPartFlags_paced (s : State) (e : PartEventSet) (p : PartConfig) : (s.setPartFlags e p).paced = s.paced := rfl

@[simp] theorem setPartFlags_lastVoice (s : State) (e : PartEventSet) (p : PartConfig) : (s.setPartFlags e p).lastVoice = s.lastVoice := rfl

@[simp] theorem setPartFlags_su (s : State) (e : PartEventSet) (p : PartConfig) : (s.setPartFlags e p).su = s.su := rfl

@[simp] theorem setPartFlags_ld (s : State) (e : PartEventSet) (p : PartConfig) : (s.setPartFlags e p).ld = s.ld := rfl

@[simp] theorem setPartFlags_profiles (s : State) (e : PartEventSet) (p : PartConfig) : (s.setPartFlags e p).profiles = s.profiles := rfl

@[simp] theorem setPartFlags_xlat (s : State) (e : PartEventSet) (p : PartConfig) : (s.setPartFlags e p).xlat = s.xlat := rfl

@[simp] theorem setPartFlags_code (s : State) (e : PartEventSet) (p : PartConfig) : (s.setPartFlags e p).code = s.code := rfl

@[simp] theorem setPartFlags_tones (s : State) (e : PartEventSet) (p : PartConfig) : (s.setPartFlags e p).tones = s.tones := rfl

@[simp] theorem setPartFlags_lines (s : State) (e : PartEventSet) (p : PartConfig) : (s.setPartFlags e p).lines = s.lines := rfl

@[simp] theorem setPartFlags_checkFailures (s : State) (e : PartEventSet) (p : PartConfig) : (s.setPartFlags e p).checkFailures = s.checkFailures := rfl

@[simp] theorem setPartFlags_discardedRequests (s : State) (e : PartEventSet) (p : PartConfig) : (s.setPartFlags e p).discardedRequests = s.discardedRequests := rfl

@[simp] theorem setPartFlags_receiver (s : State) (e : PartEventSet) (p : PartConfig) : (s.setPartFlags e p).receiver = s.receiver := rfl

@[simp] theorem setPartFlags_slot (s : State) (e : PartEventSet) (p : PartConfig) : (s.setPartFlags e p).slot = s.slot := rfl

@[simp] theorem setPartFlags_replies (s : State) (e : PartEventSet) (p : PartConfig) : (s.setPartFlags e p).replies = s.replies := rfl

@[simp] theorem setPartFlags_tx (s : State) (e : PartEventSet) (p : PartConfig) : (s.setPartFlags e p).tx = s.tx := rfl

@[simp] theorem setPartFlags_lastSent (s : State) (e : PartEventSet) (p : PartConfig) : (s.setPartFlags e p).lastSent = s.lastSent := rfl

@[simp] theorem setPartFlags_softReset (s : State) (e : PartEventSet) (p : PartConfig) : (s.setPartFlags e p).softReset = s.softReset := rfl

@[simp] theorem setPartFlags_cursor (s : State) (e : PartEventSet) (p : PartConfig) : (s.setPartFlags e p).cursor = s.cursor := rfl

@[simp] theorem setPartFlags_raceCount (s : State) (e : PartEventSet) (p : PartConfig) : (s.setPartFlags e p).raceCount = s.raceCount := rfl

@[simp] theorem setPartFlags_pending (s : State) (e : PartEventSet) (p : PartConfig) : (s.setPartFlags e p).pending = s.pending := rfl

@[simp] theorem setPartFlags_partEvents (s : State) (e : PartEventSet) (p : PartConfig) :
    (s.setPartFlags e p).partEvents = e := rfl

@[simp] theorem setPartFlags_part (s : State) (e : PartEventSet) (p : PartConfig) : (s.setPartFlags e p).part = p := rfl

/-! ## setAligner lu -/

@[simp] theorem setAligner_lu_sd (s : State) (a : Aligner) : (s.setAligner .lu a).sd = s.sd := rfl

@[simp] theorem setAligner_lu_clock (s : State) (a : Aligner) : (s.setAligner .lu a).clock = s.clock := rfl

@[simp] theorem setAligner_lu_lossHold (s : State) (a : Aligner) : (s.setAligner .lu a).lossHold = s.lossHold := rfl

@[simp] theorem setAligner_lu_waiting (s : State) (a : Aligner) : (s.setAligner .lu a).waiting = s.waiting := rfl

@[simp] theorem setAligner_lu_paced (s : State) (a : Aligner) : (s.setAligner .lu a).paced = s.paced := rfl

@[simp] theorem setAligner_lu_lastVoice (s : State) (a : Aligner) : (s.setAligner .lu a).lastVoice = s.lastVoice := rfl

@[simp] theorem setAligner_lu_su (s : State) (a : Aligner) : (s.setAligner .lu a).su = s.su := rfl

@[simp] theorem setAligner_lu_ld (s : State) (a : Aligner) : (s.setAligner .lu a).ld = s.ld := rfl

@[simp] theorem setAligner_lu_profiles (s : State) (a : Aligner) : (s.setAligner .lu a).profiles = s.profiles := rfl

@[simp] theorem setAligner_lu_part (s : State) (a : Aligner) : (s.setAligner .lu a).part = s.part := rfl

@[simp] theorem setAligner_lu_xlat (s : State) (a : Aligner) : (s.setAligner .lu a).xlat = s.xlat := rfl

@[simp] theorem setAligner_lu_code (s : State) (a : Aligner) : (s.setAligner .lu a).code = s.code := rfl

@[simp] theorem setAligner_lu_tones (s : State) (a : Aligner) : (s.setAligner .lu a).tones = s.tones := rfl

@[simp] theorem setAligner_lu_lines (s : State) (a : Aligner) : (s.setAligner .lu a).lines = s.lines := rfl

@[simp] theorem setAligner_lu_partEvents (s : State) (a : Aligner) : (s.setAligner .lu a).partEvents = s.partEvents := rfl

@[simp] theorem setAligner_lu_checkFailures (s : State) (a : Aligner) : (s.setAligner .lu a).checkFailures = s.checkFailures := rfl

@[simp] theorem setAligner_lu_discardedRequests (s : State) (a : Aligner) : (s.setAligner .lu a).discardedRequests = s.discardedRequests := rfl

@[simp] theorem setAligner_lu_attention (s : State) (a : Aligner) : (s.setAligner .lu a).attention = s.attention := rfl

@[simp] theorem setAligner_lu_receiver (s : State) (a : Aligner) : (s.setAligner .lu a).receiver = s.receiver := rfl

@[simp] theorem setAligner_lu_slot (s : State) (a : Aligner) : (s.setAligner .lu a).slot = s.slot := rfl

@[simp] theorem setAligner_lu_replies (s : State) (a : Aligner) : (s.setAligner .lu a).replies = s.replies := rfl

@[simp] theorem setAligner_lu_tx (s : State) (a : Aligner) : (s.setAligner .lu a).tx = s.tx := rfl

@[simp] theorem setAligner_lu_lastSent (s : State) (a : Aligner) : (s.setAligner .lu a).lastSent = s.lastSent := rfl

@[simp] theorem setAligner_lu_softReset (s : State) (a : Aligner) : (s.setAligner .lu a).softReset = s.softReset := rfl

@[simp] theorem setAligner_lu_cursor (s : State) (a : Aligner) : (s.setAligner .lu a).cursor = s.cursor := rfl

@[simp] theorem setAligner_lu_raceCount (s : State) (a : Aligner) : (s.setAligner .lu a).raceCount = s.raceCount := rfl

@[simp] theorem setAligner_lu_pending (s : State) (a : Aligner) : (s.setAligner .lu a).pending = s.pending := rfl

@[simp] theorem setAligner_lu_lu (s : State) (a : Aligner) : (s.setAligner .lu a).lu = a := rfl

/-! ## setAligner sd -/

@[simp] theorem setAligner_sd_lu (s : State) (a : Aligner) : (s.setAligner .sd a).lu = s.lu := rfl

@[simp] theorem setAligner_sd_clock (s : State) (a : Aligner) : (s.setAligner .sd a).clock = s.clock := rfl

@[simp] theorem setAligner_sd_lossHold (s : State) (a : Aligner) : (s.setAligner .sd a).lossHold = s.lossHold := rfl

@[simp] theorem setAligner_sd_waiting (s : State) (a : Aligner) : (s.setAligner .sd a).waiting = s.waiting := rfl

@[simp] theorem setAligner_sd_paced (s : State) (a : Aligner) : (s.setAligner .sd a).paced = s.paced := rfl

@[simp] theorem setAligner_sd_lastVoice (s : State) (a : Aligner) : (s.setAligner .sd a).lastVoice = s.lastVoice := rfl

@[simp] theorem setAligner_sd_su (s : State) (a : Aligner) : (s.setAligner .sd a).su = s.su := rfl

@[simp] theorem setAligner_sd_ld (s : State) (a : Aligner) : (s.setAligner .sd a).ld = s.ld := rfl

@[simp] theorem setAligner_sd_profiles (s : State) (a : Aligner) : (s.setAligner .sd a).profiles = s.profiles := rfl

@[simp] theorem setAligner_sd_part (s : State) (a : Aligner) : (s.setAligner .sd a).part = s.part := rfl

@[simp] theorem setAligner_sd_xlat (s : State) (a : Aligner) : (s.setAligner .sd a).xlat = s.xlat := rfl

@[simp] theorem setAligner_sd_code (s : State) (a : Aligner) : (s.setAligner .sd a).code = s.code := rfl

@[simp] theorem setAligner_sd_tones (s : State) (a : Aligner) : (s.setAligner .sd a).tones = s.tones := rfl

@[simp] theorem setAligner_sd_lines (s : State) (a : Aligner) : (s.setAligner .sd a).lines = s.lines := rfl

@[simp] theorem setAligner_sd_partEvents (s : State) (a : Aligner) : (s.setAligner .sd a).partEvents = s.partEvents := rfl

@[simp] theorem setAligner_sd_checkFailures (s : State) (a : Aligner) : (s.setAligner .sd a).checkFailures = s.checkFailures := rfl

@[simp] theorem setAligner_sd_discardedRequests (s : State) (a : Aligner) : (s.setAligner .sd a).discardedRequests = s.discardedRequests := rfl

@[simp] theorem setAligner_sd_attention (s : State) (a : Aligner) : (s.setAligner .sd a).attention = s.attention := rfl

@[simp] theorem setAligner_sd_receiver (s : State) (a : Aligner) : (s.setAligner .sd a).receiver = s.receiver := rfl

@[simp] theorem setAligner_sd_slot (s : State) (a : Aligner) : (s.setAligner .sd a).slot = s.slot := rfl

@[simp] theorem setAligner_sd_replies (s : State) (a : Aligner) : (s.setAligner .sd a).replies = s.replies := rfl

@[simp] theorem setAligner_sd_tx (s : State) (a : Aligner) : (s.setAligner .sd a).tx = s.tx := rfl

@[simp] theorem setAligner_sd_lastSent (s : State) (a : Aligner) : (s.setAligner .sd a).lastSent = s.lastSent := rfl

@[simp] theorem setAligner_sd_softReset (s : State) (a : Aligner) : (s.setAligner .sd a).softReset = s.softReset := rfl

@[simp] theorem setAligner_sd_cursor (s : State) (a : Aligner) : (s.setAligner .sd a).cursor = s.cursor := rfl

@[simp] theorem setAligner_sd_raceCount (s : State) (a : Aligner) : (s.setAligner .sd a).raceCount = s.raceCount := rfl

@[simp] theorem setAligner_sd_pending (s : State) (a : Aligner) : (s.setAligner .sd a).pending = s.pending := rfl

@[simp] theorem setAligner_sd_sd (s : State) (a : Aligner) : (s.setAligner .sd a).sd = a := rfl

@[simp] theorem aligner_setAligner (s : State) (d : Direction) (a : Aligner) : (s.setAligner d a).aligner d = a := by
  cases d <;> rfl

/-! ## Arrivals taken by themselves -/

@[simp] theorem atArrival_self (s : State) : atArrival s s = s := ite_self s

@[simp] theorem atArrival_of_up {s : State} (up : s.lu.up = true) (t : State) : atArrival s t = t := if_pos up

@[simp] theorem atArrival_of_notUp {s : State} (down : s.lu.up = false) (t : State) : atArrival s t = s := by
  simp [atArrival, down]

/-- What holds before an arrival and after it holds whether or not LU is up. -/
theorem atArrival_keeps {P : State → Prop} {s t : State} (before : P s) (after : P t) : P (atArrival s t) := by
  unfold atArrival
  split <;> assumption

/-! ## Lines through updates that leave them alone -/

@[simp] theorem line_bindPages (s : State) (t : TransPage) (c : Option CodePage) (n : LineId) :
    (s.bindPages t c).line n = s.line n := rfl

@[simp] theorem line_unbindPages (s : State) (t : TransPage) (c : Option CodePage) (n : LineId) :
    (s.unbindPages t c).line n = s.line n := rfl

@[simp] theorem line_setPartFlags (s : State) (e : PartEventSet) (p : PartConfig) (n : LineId) :
    (s.setPartFlags e p).line n = s.line n := rfl

@[simp] theorem line_modLineMapped_self (s : State) (n : LineId) (f : Line → Line) :
    (s.modLineMapped n f).line n = f (s.line n) := line_modLine_self s n f

theorem line_modLineMapped_other (s : State) {n m : LineId} (f : Line → Line) (h : m ≠ n) :
    (s.modLineMapped n f).line m = s.line m := line_modLine_other s f h

end Sys2Proof.Machine
end

