-- ==== Sys2Proof/Laws/Effects.lean ====
section
/-! SUPPORT. Everything a step can do, said once: each operation is a composition of the updates of `Closed`, so a property of
states that those updates keep is kept by every step. -/

namespace Sys2Proof.Machine

/-! ## The updates -/

/-- Only the part flags and counters and the state of the Management Channel other than its reply queue differ. -/
def ManagementOnly (s t : State) : Prop :=
  t = { s with
    partEvents := t.partEvents
    checkFailures := t.checkFailures
    discardedRequests := t.discardedRequests
    attention := t.attention
    receiver := t.receiver
    slot := t.slot
    tx := t.tx
    lastSent := t.lastSent
    softReset := t.softReset
    cursor := t.cursor }

/-- Only the ports differ, the alignment machines, the clock, the waiting frame and the delivered SD frames apart. -/
def PortsOnly (s t : State) : Prop :=
  t = { s with
    lossHold := t.lossHold
    lastVoice := t.lastVoice
    su := t.su
    ld := t.ld
    raceCount := t.raceCount }

/-- Only state outside the lines, the tables, the configuration, the alignment machines, the clock, the waiting frame, the delivered SD
frames and the reply queue differs. -/
def SharedOnly (s t : State) : Prop :=
  t = { s with
    lossHold := t.lossHold
    lastVoice := t.lastVoice
    su := t.su
    ld := t.ld
    partEvents := t.partEvents
    checkFailures := t.checkFailures
    discardedRequests := t.discardedRequests
    attention := t.attention
    receiver := t.receiver
    slot := t.slot
    tx := t.tx
    lastSent := t.lastSent
    softReset := t.softReset
    cursor := t.cursor
    raceCount := t.raceCount }

/-- Only the part flags, the two part counters, the attention-wanted flag, the pending soft reset and the cursor differ. -/
def RequestOnly (s t : State) : Prop :=
  t = { s with
    partEvents := t.partEvents
    checkFailures := t.checkFailures
    discardedRequests := t.discardedRequests
    attention := t.attention
    softReset := t.softReset
    cursor := t.cursor }

/-- An emission that only a line with a call may leave idle for, with at most 16 items unless more waited before. -/
def EmissionStep (l : Line) (e : Emission) : Prop :=
  (l.decoder.call.isSome = true ∨ (l.emission = Emission.idle → e = Emission.idle)) ∧
    e.queue.length ≤ max 16 l.emission.queue.length

/-- What one update does to one line, its Voice Selector and its Loop Filter apart. -/
inductive LineStep : Line → Line → Prop
  | keep {l l' : Line} (decoder : l'.decoder = l.decoder) (mode : l'.config.mode = l.config.mode)
      (pendingMode : l'.config.pendingMode = l.config.pendingMode) (emission : EmissionStep l l'.emission)
      (voice : l'.voice = l.voice) (filter : l'.filter = l.filter) : LineStep l l'
  | noCall {l : Line} (d : Decoder) (before : l.decoder.call = none) (after : d.call = none)
      (mode : d = .idle ∨ l.config.mode = .convert) : LineStep l { l with decoder := d }
  | call {l : Line} {st st' : CallState} {c c' : Call} (before : l.decoder = .inCall st c)
      (trans : c'.transPage = c.transPage) (code : c'.codePage = c.codePage) :
      LineStep l { l with decoder := .inCall st' c' }
  | enter {l : Line} (m : Mode) (before : l.decoder.call = none ∨ l.config.mode ≠ .convert)
      (mode : m ≠ .parked ∨ l.config.pendingMode = some m) :
      LineStep l { l with
        config := { l.config with mode := m, pendingMode := none }
        decoder := if m = .convert ∧ l.filter.fault = true then .fault else .idle }
  | park {l : Line} (before : l.decoder = .idle) :
      LineStep l { l with config := { l.config with mode := .parked, pendingMode := none } }
  | cancel {l : Line} : LineStep l { l with config := { l.config with pendingMode := none } }
  | defer {l : Line} (m : Mode) (before : l.config.mode ≠ .parked) (notParked : m ≠ .parked) (other : m ≠ l.config.mode) :
      LineStep l { l with config := { l.config with pendingMode := some m } }

/-- A property that every update of line `n` but those of its Loop Filter keeps. -/
structure DecoderClosed (n : LineId) (P : State → Prop) : Prop where
  attention : ∀ {s} (a : Bool), P s → P { s with attention := a }
  line : ∀ {s} (f), P s → LineStep (s.line n) (f (s.line n)) → P (s.modLine n f)
  opening : ∀ {s}, P s → (s.line n).decoder = .seizing → P (openCall n s)
  clear : ∀ {s} (d), P s → d.call = none →
    (d = .idle ∨ d = (s.line n).decoder ∨ (s.line n).config.mode = .convert) → P (clearCall n d s)

/-- A property that every update of line `n` keeps. -/
structure LineClosed (n : LineId) (P : State → Prop) : Prop extends DecoderClosed n P where
  filter : ∀ {s} (f), P s → LineStep (s.line n) { f (s.line n) with filter := (s.line n).filter } → P (s.modLine n f)

/-- A property that every update that a request can make keeps. -/
structure ClosedRequest (P : State → Prop) : Prop where
  on : ∀ n, LineClosed n P
  small : ∀ {s t}, P s → RequestOnly s t → P t
  config : ∀ {s} (c : PartConfig), P s → (c.qualWindow = 100 ∨ c.qualWindow = 1000) → P { s with part := c.clamped }
  profile : ∀ {s} (k : Fin 8) (w : ProfileWire) (cs : Option (Fin 4)), P s →
    (w.clamped.toProfile cs).ordered = true → P { s with profiles := s.profiles.set k.val (w.clamped.toProfile cs) k.isLt }
  trans : ∀ {s} (k : Fin 8) (f : TransSet → TransSet), P s → (f (s.xlat.get k)).boundA = (s.xlat.get k).boundA →
    (f (s.xlat.get k)).boundB = (s.xlat.get k).boundB → P { s with xlat := vmod s.xlat k f }
  code : ∀ {s} (k : Fin 4) (f : CodeSet → CodeSet), P s → (f (s.code.get k)).boundA = (s.code.get k).boundA →
    (f (s.code.get k)).boundB = (s.code.get k).boundB → P { s with code := vmod s.code k f }
  tones : ∀ {s} (v : Vector ToneEntry 16), P s → P { s with tones := v }

/-- A property that every update of the Management Channel but those of the reply queue keeps. -/
structure ClosedBody (P : State → Prop) : Prop extends ClosedRequest P where
  management : ∀ {s t}, P s → ManagementOnly s t → P t

/-- A property that every update of the Management Channel keeps. -/
structure ClosedQueue (P : State → Prop) : Prop extends ClosedBody P where
  replies : ∀ {s} (r : List Reply), P s → r.length ≤ max 4 s.replies.length → P { s with replies := r }

/-- A property that every update of an output frame keeps, those of the Voice Selectors and the reply queue apart. -/
structure ClosedFrame (P : State → Prop) : Prop extends ClosedBody P where
  ports : ∀ {s t}, P s → PortsOnly s t → P t
  paced : ∀ {s}, P s → P { s with paced := s.paced.tail }
  carried : ∀ {s}, P s → P { s with waiting := none }

/-- A property that every update but those of the command queue keeps. -/
structure Closed (P : State → Prop) : Prop extends ClosedQueue P, ClosedFrame P where
  voice : ∀ {s} (n : LineId) (f : Line → Voice), P s → P (s.modLine n fun l => { l with voice := f l })
  lu : ∀ {s} (a : Aligner), P s → a.up = s.lu.up → P (s.setAligner .lu a)
  luLock : ∀ {s}, P s → P { s with lu := Aligner.lockedOn }
  luLoss : ∀ {s}, P s → P { s with lu := Aligner.hunting, waiting := none }
  luFrame : ∀ {s} (cs : Channels), P s → s.lu.up = true → P { s with waiting := some cs }
  sd : ∀ {s} (a : Aligner), P s → a.up = s.sd.up → P (s.setAligner .sd a)
  sdLock : ∀ {s}, P s → P { s with sd := Aligner.lockedOn, clock := .sd }
  sdLoss : ∀ {s}, P s → P { s with sd := Aligner.hunting, clock := .freeRunning, paced := [] }
  sdFrame : ∀ {s} (cs : Channels), P s → s.sd.up = true → P { s with paced := s.paced ++ [cs] }
  reset : ∀ {s}, P s → P { State.reset with pending := s.pending, raceCount := s.raceCount }

variable {P : State → Prop}

/-! ## Small facts about lines -/

theorem callOf_eq (s : State) (n : LineId) : s.callOf n = (s.line n).decoder.call := rfl

theorem call_eq_some {d : Decoder} {c : Call} (h : d.call = some c) : ∃ st, d = .inCall st c := by
  cases d <;> simp_all [Decoder.call]

theorem EmissionStep.same (l : Line) : EmissionStep l l.emission := ⟨Or.inr id, le_max_right _ _⟩

theorem EmissionStep.inCall {l : Line} {e : Emission} (h : l.decoder.call.isSome = true)
    (q : e.queue.length ≤ max 16 l.emission.queue.length) : EmissionStep l e := ⟨Or.inl h, q⟩

/-- An emission that was not idle may take any emission whose queue is not longer. -/
theorem EmissionStep.busy {l : Line} {e : Emission} (h : l.emission ≠ Emission.idle)
    (q : e.queue.length ≤ max 16 l.emission.queue.length) : EmissionStep l e := ⟨Or.inr fun x => absurd x h, q⟩

theorem LineStep.data {l l' : Line} (decoder : l'.decoder = l.decoder) (config : l'.config = l.config)
    (emission : l'.emission = l.emission) (voice : l'.voice = l.voice) (filter : l'.filter = l.filter) : LineStep l l' :=
  .keep decoder (by rw [config]) (by rw [config]) (emission ▸ EmissionStep.same l) voice filter

theorem LineStep.emit {l : Line} {e : Emission} (h : EmissionStep l e) : LineStep l { l with emission := e } :=
  .keep rfl rfl rfl h rfl rfl

theorem LineStep.voice {l l' : Line} (h : LineStep l l') : l'.voice = l.voice := by
  cases h <;> first | assumption | rfl

theorem LineStep.filter {l l' : Line} (h : LineStep l l') : l'.filter = l.filter := by
  cases h <;> first | assumption | rfl

theorem modLine_congr (s : State) (n : LineId) {f g : Line → Line} (h : f (s.line n) = g (s.line n)) :
    s.modLine n f = s.modLine n g := by
  have h' : f (s.lines.get n) = g (s.lines.get n) := h
  simp [State.modLine, vmod, h']

theorem line_clearCall_self (n : LineId) (d : Decoder) (s : State) : ((clearCall n d s).line n).decoder = d := by
  unfold clearCall
  split <;> simp [setDecoder_eq]

theorem config_clearCall (n : LineId) (d : Decoder) (s : State) : ((clearCall n d s).line n).config = (s.line n).config := by
  unfold clearCall
  split <;> simp [setDecoder_eq]

theorem filter_clearCall (n : LineId) (d : Decoder) (s : State) : ((clearCall n d s).line n).filter = (s.line n).filter := by
  unfold clearCall
  split <;> simp [setDecoder_eq]

/-! ## Flags and quality -/

namespace DecoderClosed

theorem modLineMapped {n : LineId} (h : DecoderClosed n P) {s : State} {f : Line → Line} (p : P s)
    (g : LineStep (s.line n) (f (s.line n))) : P (s.modLineMapped n f) := h.attention _ (h.line f p g)

theorem latch {n : LineId} (h : DecoderClosed n P) (e : LineEvent) {s : State} (p : P s) : P (latch n e s) :=
  h.modLineMapped p (.data rfl rfl rfl rfl rfl)

theorem latchReject {n : LineId} (h : DecoderClosed n P) (r : RejectReason) {s : State} (p : P s) : P (latchReject n r s) :=
  h.latch _ (h.line _ p (.data rfl rfl rfl rfl rfl))

theorem modQuality {n : LineId} (h : DecoderClosed n P) (f : Quality → Quality) {s : State} (p : P s) : P (s.modQuality n f) :=
  h.line _ p (.data rfl rfl rfl rfl rfl)

theorem endWindow {n : LineId} (h : DecoderClosed n P) {s : State} (p : P s) : P (endWindow n s) := by
  unfold Machine.endWindow
  dsimp only
  split
  · exact h.latch _ (h.modQuality _ p)
  · exact h.modQuality _ p

theorem applyReport {n : LineId} (h : DecoderClosed n P) (r : DigitReport) {s : State} (p : P s) : P (applyReport n r s) :=
  h.modQuality _ p

theorem reportDigit {n : LineId} (h : DecoderClosed n P) (r : DigitReport) {s : State} (p : P s) : P (reportDigit n r s) := by
  unfold Machine.reportDigit
  dsimp only
  split
  · exact h.endWindow (h.applyReport r p)
  · exact h.applyReport r p

theorem reportGlitch {n : LineId} (h : DecoderClosed n P) {s : State} (p : P s) : P (reportGlitch n s) := h.modQuality _ p

theorem reportAborted {n : LineId} (h : DecoderClosed n P) {s : State} (p : P s) : P (reportAborted n s) := h.modQuality _ p

theorem reportFalseSeizure {n : LineId} (h : DecoderClosed n P) {s : State} (p : P s) : P (reportFalseSeizure n s) :=
  h.modQuality _ p

/-! ## The Code Matcher and the queue -/

/-- Queueing keeps the property on a line with an open call. -/
theorem bring {n : LineId} (h : DecoderClosed n P) (items : List Item) {s : State} (p : P s) (c : (s.callOf n).isSome = true) :
    P (bring n items s) := by
  unfold Machine.bring
  have q : P (s.modLine n fun l =>
      { l with emission := { l.emission with queue := ((s.line n).emission.queue ++ items).take 16 } }) :=
    h.line _ p (.emit (.inCall c (by simp)))
  dsimp only
  split
  · exact h.latch _ q
  · exact q

/-- Changing fields of the call record other than its pages. -/
theorem modCall {n : LineId} (h : DecoderClosed n P) {f : Call → Call} {s : State} (p : P s)
    (g : ∀ c, (f c).transPage = c.transPage ∧ (f c).codePage = c.codePage) : P (s.modCall n f) := by
  rw [modCall_eq]
  refine h.line _ p ?_
  cases e : (s.line n).decoder with
  | inCall st c => exact .call e (g c).1 (g c).2
  | _ => exact .data (by simp [e, Decoder.mapCall]) rfl rfl rfl rfl

theorem setInCall {n : LineId} (h : DecoderClosed n P) {s : State} (p : P s) {st st' : CallState} {c c' : Call}
    (before : (s.line n).decoder = .inCall st c) (trans : c'.transPage = c.transPage) (code : c'.codePage = c.codePage) :
    P (s.setDecoder n (.inCall st' c')) := h.line _ p (.call before trans code)

end DecoderClosed

@[simp] theorem decoder_latch (n : LineId) (e : LineEvent) (s : State) :
    ((latch n e s).line n).decoder = (s.line n).decoder := by simp [latch]

@[simp] theorem config_latch (n : LineId) (e : LineEvent) (s : State) :
    ((latch n e s).line n).config = (s.line n).config := by simp [latch]

@[simp] theorem decoder_latchReject (n : LineId) (r : RejectReason) (s : State) :
    ((latchReject n r s).line n).decoder = (s.line n).decoder := by simp [latchReject]

@[simp] theorem config_latchReject (n : LineId) (r : RejectReason) (s : State) :
    ((latchReject n r s).line n).config = (s.line n).config := by simp [latchReject]

@[simp] theorem decoder_modQuality (n : LineId) (f : Quality → Quality) (s : State) :
    ((s.modQuality n f).line n).decoder = (s.line n).decoder := by simp [modQuality_eq]

@[simp] theorem config_modQuality (n : LineId) (f : Quality → Quality) (s : State) :
    ((s.modQuality n f).line n).config = (s.line n).config := by simp [modQuality_eq]

@[simp] theorem decoder_setDecoder (n : LineId) (d : Decoder) (s : State) : ((s.setDecoder n d).line n).decoder = d := by
  simp [setDecoder_eq]

@[simp] theorem config_setDecoder (n : LineId) (d : Decoder) (s : State) :
    ((s.setDecoder n d).line n).config = (s.line n).config := by simp [setDecoder_eq]

@[simp] theorem decoder_setFilter (n : LineId) (f : Filter) (s : State) :
    ((s.setFilter n f).line n).decoder = (s.line n).decoder := by simp [setFilter_eq]

@[simp] theorem config_setFilter (n : LineId) (f : Filter) (s : State) :
    ((s.setFilter n f).line n).config = (s.line n).config := by simp [setFilter_eq]

@[simp] theorem decoder_reportGlitch (n : LineId) (s : State) :
    ((reportGlitch n s).line n).decoder = (s.line n).decoder := by simp [reportGlitch]

@[simp] theorem decoder_reportAborted (n : LineId) (s : State) :
    ((reportAborted n s).line n).decoder = (s.line n).decoder := by simp [reportAborted]

@[simp] theorem config_reportAborted (n : LineId) (s : State) :
    ((reportAborted n s).line n).config = (s.line n).config := by simp [reportAborted]

@[simp] theorem decoder_reportFalseSeizure (n : LineId) (s : State) :
    ((reportFalseSeizure n s).line n).decoder = (s.line n).decoder := by simp [reportFalseSeizure]

@[simp] theorem decoder_matchEffects (n : LineId) (o : Nat) (e : CodeEntry) (s : State) :
    ((matchEffects n o e s).line n).decoder = (s.line n).decoder := by
  unfold matchEffects
  dsimp only
  split <;> split <;> simp

theorem call_mapCall (d : Decoder) (f : Call → Call) : (d.mapCall f).call = d.call.map f := by cases d <;> rfl

@[simp] theorem callOf_modCall (n : LineId) (f : Call → Call) (s : State) : (s.modCall n f).callOf n = (s.callOf n).map f := by
  simp [callOf_eq, modCall_eq, call_mapCall]

namespace DecoderClosed

theorem matchEffects {n : LineId} (h : DecoderClosed n P) (o : Nat) (e : CodeEntry) {s : State} (p : P s) :
    P (matchEffects n o e s) := by
  unfold Machine.matchEffects
  have q : P (if e.action = some .capture then
      Machine.latch n .capture (s.modLine n fun l => { l with capture := some (writeCapture l.capture o e.code) })
    else s) := by
    split
    · exact h.latch _ (h.line _ p (.data rfl rfl rfl rfl rfl))
    · exact p
  dsimp only
  split
  · exact h.latch _ q
  · exact q

/-- A resolution keeps the property on a line with an open call. -/
theorem resolve {n : LineId} (h : DecoderClosed n P) (c : Call) (f : Option Nat) (x : List Item) {s : State} (p : P s)
    (o : (s.callOf n).isSome = true) : P (resolve n c f x s) := by
  unfold Machine.resolve
  dsimp only
  have key : ∀ t : State, P t → (t.callOf n).isSome = true → P (Machine.bring n
      ((resolvedSymbols c.held (f.bind fun f => (s.liveOf c)[f]?)).map Item.digit ++ x)
      (t.modCall n fun k => { k with held := [], fallback := none, phase := .free })) := fun t pt ot =>
    h.bring _ (h.modCall pt fun _ => ⟨rfl, rfl⟩) (by simpa using ot)
  split
  · exact key _ (h.matchEffects _ _ p) (by simpa [callOf_eq] using o)
  · exact key _ p o

theorem screenSymbol {n : LineId} (h : DecoderClosed n P) (sym : Symbol) (c : Call) {s : State} (p : P s)
    (o : s.callOf n = some c) : P (screenSymbol n sym c s) := by
  unfold Machine.screenSymbol
  dsimp only
  obtain ⟨st, e⟩ := call_eq_some o
  have q : P (s.modCall n fun _ =>
      { c with
        held := c.held ++ [sym]
        fallback := newFallback c.fallback ((s.liveOf c).findIdx? fun e => classify (c.held ++ [sym]) e = .complete) }) := by
    rw [modCall_eq]
    refine h.line _ p ?_
    simp only [e, Decoder.mapCall]
    exact .call e rfl rfl
  split
  · exact q
  · exact h.resolve _ _ _ q (by simp [o])
  · exact h.resolve _ _ _ q (by simp [o])

theorem handSymbol {n : LineId} (h : DecoderClosed n P) (sym : Symbol) {s : State} (p : P s) : P (handSymbol n sym s) := by
  unfold Machine.handSymbol
  split
  · exact p
  · split
    · exact h.screenSymbol sym _ p ‹_›
    · exact h.bring _ p (by simp [*])

theorem handFlash {n : LineId} (h : DecoderClosed n P) {s : State} (p : P s) : P (handFlash n s) := by
  unfold Machine.handFlash
  split
  · exact p
  · split
    · exact h.resolve _ _ _ p (by simp [*])
    · exact h.bring _ p (by simp [*])

theorem handDialIdle {n : LineId} (h : DecoderClosed n P) {s : State} (p : P s) : P (handDialIdle n s) := by
  unfold Machine.handDialIdle
  split
  · exact p
  · exact h.resolve _ _ _ p (by simp [*])

end DecoderClosed

namespace ClosedBody

theorem latchPart (h : ClosedBody P) (e : PartEvent) {s : State} (p : P s) : P (latchPart e s) := h.management p rfl

theorem raiseCheckFail (h : ClosedBody P) {s : State} (p : P s) : P (raiseCheckFail s) := h.management p rfl

theorem raiseRequestDiscard (h : ClosedBody P) {s : State} (p : P s) : P (raiseRequestDiscard s) := h.management p rfl

end ClosedBody

/-- The management and the port updates together. -/
theorem ClosedFrame.shared (h : ClosedFrame P) {s t : State} (p : P s) (e : SharedOnly s t) : P t := by
  have q : P { s with
      partEvents := t.partEvents
      checkFailures := t.checkFailures
      discardedRequests := t.discardedRequests
      attention := t.attention
      receiver := t.receiver
      slot := t.slot
      tx := t.tx
      lastSent := t.lastSent
      softReset := t.softReset
      cursor := t.cursor } := h.management p rfl
  refine h.ports q ?_
  unfold PortsOnly
  rw [SharedOnly] at e
  generalize t.lossHold = a2, t.lastVoice = a5, t.su = a6, t.ld = a7, t.partEvents = a8,
    t.checkFailures = a9, t.discardedRequests = b1, t.attention = b2, t.receiver = b3, t.slot = b4, t.tx = b5, t.lastSent = b6,
    t.softReset = b7, t.cursor = b8, t.raceCount = b9 at e ⊢
  exact e

end Sys2Proof.Machine
end

