-- ==== Sys2Proof/Laws/LineEffects.lean ====
section
/-! SUPPORT. What the operations of one line can do (chapters 3 to 9): each keeps every property that the updates keep. -/

namespace Sys2Proof.Machine

variable {P : State → Prop}

theorem line_becomeIdle_none {n : LineId} {s : State} (h : (s.line n).config.pendingMode = none) : becomeIdle n s = s := by
  simp [becomeIdle, h]

namespace DecoderClosed

/-! ## The Dial Decoder -/

theorem enterMode {n : LineId} (h : DecoderClosed n P) (m : Mode) {s : State} (p : P s)
    (before : (s.line n).decoder.call = none ∨ (s.line n).config.mode ≠ .convert)
    (mode : m ≠ .parked ∨ (s.line n).config.pendingMode = some m) : P (enterMode n m s) :=
  h.line _ p (.enter m before mode)

theorem becomeIdle {n : LineId} (h : DecoderClosed n P) {s : State} (p : P s)
    (before : (s.line n).decoder.call = none ∨ (s.line n).config.mode ≠ .convert) : P (becomeIdle n s) := by
  unfold Machine.becomeIdle
  split
  · exact p
  · exact h.enterMode _ p before (.inr ‹_›)

theorem setNoCall {n : LineId} (h : DecoderClosed n P) (d : Decoder) {s : State} (p : P s)
    (before : (s.line n).decoder.call = none) (after : d.call = none)
    (mode : d = .idle ∨ (s.line n).config.mode = .convert) : P (s.setDecoder n d) :=
  h.line _ p (.noCall d before after mode)

theorem hangUp {n : LineId} (h : DecoderClosed n P) {s : State} (p : P s) : P (hangUp n s) :=
  h.becomeIdle (h.clear _ p rfl (.inl rfl)) (.inl (by simp [line_clearCall_self, Decoder.call]))

theorem handTranslation {n : LineId} (h : DecoderClosed n P) (v : TransValue) {s : State} (p : P s) :
    P (handTranslation n v s) := by
  unfold Machine.handTranslation
  split
  · exact h.handSymbol _ p
  · exact p
  · exact h.handFlash p
  · exact h.latchReject _ p

theorem completeDigit {n : LineId} (h : DecoderClosed n P) {st : CallState} {c : Call} {s : State} (p : P s)
    (o : (s.line n).decoder = .inCall st c) : P (completeDigit n c s) := by
  unfold Machine.completeDigit
  exact h.reportDigit _ (h.handTranslation _ (h.setInCall p o rfl rfl))

theorem glitchBreak {n : LineId} (h : DecoderClosed n P) (from_ : DigitPhase) {st : CallState} {c : Call} (d : Nat) {s : State}
    (p : P s) (o : (s.line n).decoder = .inCall st c) : P (glitchBreak n from_ c d s) :=
  h.setInCall (c := c) (h.reportGlitch p) (by simpa using o) rfl rfl

theorem pulseBreak {n : LineId} (h : DecoderClosed n P) (from_ : DigitPhase) {st : CallState} {c : Call} (d : Nat) {s : State}
    (p : P s) (o : (s.line n).decoder = .inCall st c) : P (pulseBreak n from_ c d s) := by
  unfold Machine.pulseBreak
  dsimp only
  split
  · exact h.setInCall p o rfl rfl
  · split
    · exact h.setInCall p o rfl rfl
    · exact h.reportDigit _ (h.latchReject _ (h.setInCall p o rfl rfl))
  · exact h.setInCall p o rfl rfl

theorem indeterminateBreak {n : LineId} (h : DecoderClosed n P) (from_ : DigitPhase) {st : CallState} {c : Call} {s : State}
    (p : P s) (o : (s.line n).decoder = .inCall st c) : P (indeterminateBreak n from_ c s) := by
  have q := h.setInCall p o (st' := .closed .offhook) (c' := c) rfl rfl
  unfold Machine.indeterminateBreak
  dsimp only
  split
  · exact h.reportDigit _ (h.latchReject _ q)
  · exact h.reportGlitch q
  · exact q

theorem flashBreak {n : LineId} (h : DecoderClosed n P) (from_ : DigitPhase) {st : CallState} {c : Call} {s : State}
    (p : P s) (o : (s.line n).decoder = .inCall st c) : P (flashBreak n from_ c s).state := by
  unfold Machine.flashBreak
  split
  · exact h.handFlash (h.completeDigit p o)
  all_goals exact h.handFlash (h.setInCall p o rfl rfl)

theorem closeBreak {n : LineId} (h : DecoderClosed n P) (from_ : DigitPhase) {st : CallState} {c : Call} (d : Nat) {s : State}
    (p : P s) (o : (s.line n).decoder = .inCall st c) : P (closeBreak n from_ c d s).state := by
  unfold Machine.closeBreak
  split
  · exact h.glitchBreak _ _ p o
  · exact h.pulseBreak _ _ p o
  · exact h.indeterminateBreak _ p o
  · exact h.flashBreak _ p o
  · exact h.hangUp p

theorem startBreak {n : LineId} (h : DecoderClosed n P) (ph : DigitPhase) {st : CallState} {c : Call} (d : Nat) {s : State}
    (p : P s) (o : (s.line n).decoder = .inCall st c) : P (startBreak n ph c d s) := by
  unfold Machine.startBreak
  split <;> exact h.setInCall p o rfl rfl

/-- A confirmed transition on a CONVERT line. -/
theorem takeTransition {n : LineId} (h : DecoderClosed n P) (now : LoopState) (d : Nat) {s : State} (p : P s)
    (mode : (s.line n).config.mode = .convert) : P (takeTransition n now d s).state := by
  unfold Machine.takeTransition
  split
  · exact h.setNoCall _ p (by simp [*, Decoder.call]) rfl (.inr mode)
  · exact p
  · refine h.becomeIdle (h.reportFalseSeizure (h.setNoCall _ p (by simp [*, Decoder.call]) rfl (.inl rfl))) (.inl ?_)
    simp [Decoder.call]
  · exact p
  · exact p
  · exact h.startBreak _ _ p ‹_›
  · exact p
  · exact h.closeBreak _ _ p ‹_›
  · exact p

theorem digitEnd {n : LineId} (h : DecoderClosed n P) {s : State} (p : P s) : P (digitEnd n s).state := by
  unfold Machine.digitEnd
  split
  · exact h.completeDigit p ‹_›
  · exact h.setInCall p ‹_› rfl rfl
  · exact p

theorem takeTimers {n : LineId} (h : DecoderClosed n P) {s : State} (p : P s) : P (takeTimers n s).state := by
  unfold Machine.takeTimers
  split
  · rename_i due
    exact h.opening p (by simp [seizeDue] at due; exact due.1)
  · split
    · exact h.hangUp p
    · split
      · exact h.digitEnd p
      · exact p

theorem countDialIdle {n : LineId} (h : DecoderClosed n P) {s : State} (p : P s) : P (countDialIdle n s) :=
  h.modCall p fun _ => ⟨rfl, rfl⟩

theorem takeDialIdle {n : LineId} (h : DecoderClosed n P) {s : State} (p : P s) : P (takeDialIdle n s) := by
  unfold Machine.takeDialIdle
  split
  · exact h.handDialIdle (h.countDialIdle p)
  · exact h.countDialIdle p

theorem laterSteps {n : LineId} (h : DecoderClosed n P) {first : Taken} (p : P first.state) : P (laterSteps n first) := by
  unfold Machine.laterSteps
  dsimp only
  split
  · exact h.takeTimers p
  · exact h.takeDialIdle (h.takeTimers p)

theorem decodeArrival {n : LineId} (h : DecoderClosed n P) (r : LoopResult) {s : State} (p : P s)
    (mode : (s.line n).config.mode = .convert) : P (decodeArrival n r s) := by
  refine h.laterSteps ?_
  cases r with
  | nothing => exact p
  | aborted => exact h.reportAborted p
  | confirmed now d => exact h.takeTransition _ _ p mode

theorem consumeLoop {n : LineId} (h : DecoderClosed n P) (r : LoopResult) {s : State} (p : P s) : P (consumeLoop n r s) := by
  unfold Machine.consumeLoop
  split
  · exact h.decodeArrival r p ‹_›
  · split
    · exact h.becomeIdle p (.inr (by simp [*]))
    · exact p
  · exact p

end DecoderClosed

namespace LineClosed

/-! ## One sample arrival -/

theorem setFilter {n : LineId} (h : LineClosed n P) (f : Filter) {s : State} (p : P s) : P (s.setFilter n f) :=
  h.filter _ p (.data rfl rfl rfl rfl rfl)

theorem loopSample {n : LineId} (h : LineClosed n P) (l : Bool) {s : State} (p : P s) : P (loopSample n l s) := by
  unfold Machine.loopSample
  exact h.consumeLoop _ (h.setFilter _ p)

theorem enterFault {n : LineId} (h : LineClosed n P) {s : State} (p : P s) : P (enterFault n s) := by
  unfold Machine.enterFault
  split
  · exact h.clear _ p rfl (.inr (.inr ‹_›))
  · exact p

theorem exitFault {n : LineId} (h : LineClosed n P) {s : State} (p : P s) : P (exitFault n s) := by
  unfold Machine.exitFault
  split
  · rename_i c
    exact h.becomeIdle (h.setNoCall _ p (by simp [c.1, Decoder.call]) rfl (.inl rfl)) (.inl (by simp [Decoder.call]))
  · exact p

theorem faultChanged {n : LineId} (h : LineClosed n P) (f : Bool) {s : State} (p : P s) : P (faultChanged n f s) := by
  unfold Machine.faultChanged
  split
  · exact h.enterFault (h.latch _ p)
  · exact h.latch _ p

theorem faultSample {n : LineId} (h : LineClosed n P) (g : Bool) {s : State} (p : P s) : P (faultSample n g s) := by
  unfold Machine.faultSample
  dsimp only
  refine h.exitFault ?_
  split
  · exact h.faultChanged _ (h.setFilter _ p)
  · exact h.setFilter _ p

theorem arrival {n : LineId} (h : LineClosed n P) (l g : Bool) {s : State} (p : P s) : P (arrival n l g s) :=
  h.faultSample g (h.loopSample l p)

/-! ## The Tone Emitter -/

theorem modEmission {n : LineId} (h : LineClosed n P) {f : Emission → Emission} {s : State} (p : P s)
    (g : EmissionStep (s.line n) (f (s.line n).emission)) : P (s.modEmission n f) := h.line _ p (.emit g)

theorem modEmissionInCall {n : LineId} (h : LineClosed n P) (f : Emission → Emission) {s : State} (p : P s)
    (c : ¬ (s.callOf n).isNone = true) (q : ∀ e, (f e).queue = e.queue) : P (s.modEmission n f) :=
  h.modEmission p (.inCall (by simpa [callOf_eq, Option.isSome_iff_ne_none] using c) (by simp [q]))

theorem setEmitter {n : LineId} (h : LineClosed n P) (e : EmitterState) {s : State} (p : P s)
    (busy : (s.line n).emission ≠ Emission.idle) : P (s.setEmitter n e) :=
  h.modEmission p (.busy busy (le_max_right _ _))

theorem takeItem {n : LineId} (h : LineClosed n P) {s : State} (p : P s)
    (busy : (s.line n).emission ≠ Emission.idle) : P (takeItem n s) := by
  unfold Machine.takeItem
  split
  · exact h.modEmission p (.busy busy (le_max_right _ _))
  · unfold Machine.takeFromQueue
    split
    · exact p
    · rename_i e
      exact h.modEmission p (.busy busy (by simp only [e, List.length_cons]; omega))
    · rename_i e
      exact h.modEmission p (.busy busy (by simp only [e, List.length_cons]; omega))

theorem takeIfFree {n : LineId} (h : LineClosed n P) {s : State} (p : P s) : P (takeIfFree n s) := by
  unfold Machine.takeIfFree
  split
  · rename_i c
    refine h.takeItem p fun i => ?_
    simp [i, Emission.canTake, Emission.idle, Emission.slotWaiting] at c
  · exact p

theorem endGap {n : LineId} (h : LineClosed n P) {s : State} (p : P s) (busy : (s.line n).emission ≠ Emission.idle) :
    P (endGap n s) := by
  unfold Machine.endGap
  have q := h.setEmitter .quiet p busy
  dsimp only
  split
  · rename_i e
    have r : P ((s.setEmitter n .quiet).modEmission n fun e => { e with slot := none }) := by
      refine h.modEmission q (.busy (fun i => ?_) (le_max_right _ _))
      have := congrArg Emission.slot i
      simp [setEmitter_eq, Emission.idle, e] at this
    split
    · exact h.latch _ r
    · exact r
  · exact q

theorem emitterFrame {n : LineId} (h : LineClosed n P) {s : State} (p : P s) : P (emitterFrame n s) := by
  unfold Machine.emitterFrame
  have busy : ∀ x, (s.line n).emission.state = x → x ≠ .quiet → (s.line n).emission ≠ Emission.idle := by
    rintro x e ne i
    exact ne (by rw [← e, i]; rfl)
  split
  · exact h.takeIfFree p
  · split
    · exact h.setEmitter _ p (busy _ ‹_› (by simp))
    · exact h.setEmitter _ p (busy _ ‹_› (by simp))
  · split
    · exact h.takeIfFree (h.endGap p (busy _ ‹_› (by simp)))
    · exact h.setEmitter _ p (busy _ ‹_› (by simp))
  · split
    · exact h.setEmitter _ p (busy _ ‹_› (by simp))
    · exact h.setEmitter _ p (busy _ ‹_› (by simp))
  · split
    · exact h.takeIfFree (h.setEmitter _ p (busy _ ‹_› (by simp)))
    · exact h.setEmitter _ p (busy _ ‹_› (by simp))

theorem countFirstWait {n : LineId} (h : LineClosed n P) {s : State} (p : P s) : P (countFirstWait n s) := by
  refine h.modEmission p ⟨.inr fun i => ?_, le_max_right _ _⟩
  rw [i]
  rfl

/-! ## The loss hold and the line reset -/

theorem linkExpiry {n : LineId} (h : LineClosed n P) {s : State} (p : P s) : P (linkExpiry n s) := by
  unfold Machine.linkExpiry
  dsimp only
  generalize ha : (if (s.line n).decoder = .fault then Decoder.fault else .idle) = after
  have none : after.call = none := by subst ha; split <;> rfl
  have q : P ((clearCall n after s).setFilter n (s.line n).filter.linkReset) := by
    refine h.setFilter _ (h.clear _ p none ?_)
    subst ha
    split
    · exact .inr (.inl (by simp [*]))
    · exact .inl rfl
  generalize hu : (if (s.line n).decoder.call.isSome then
    Machine.latch n .linkClear ((clearCall n after s).setFilter n (s.line n).filter.linkReset)
    else (clearCall n after s).setFilter n (s.line n).filter.linkReset) = u
  have r : P u := by
    subst hu
    split
    · exact h.latch _ q
    · exact q
  have d : (u.line n).decoder.call = .none := by
    subst hu
    split <;> simp [line_clearCall_self, none]
  split
  · split
    · exact h.becomeIdle r (.inl d)
    · exact r
  · exact h.becomeIdle r (.inl d)
  · exact r

theorem lineReset {n : LineId} (h : LineClosed n P) {s : State} (p : P s) : P (lineReset n s) := by
  refine h.becomeIdle (h.filter _ (h.clear .idle p rfl (.inl rfl)) ?_) (.inl ?_)
  · exact .keep rfl rfl rfl ⟨.inr fun _ => rfl, by simp [Emission.idle]⟩ rfl rfl
  · simp [line_clearCall_self, Decoder.call]

end LineClosed

/-! ## The lines in turn -/

/-- What every line's turn keeps, all the turns keep. -/
theorem forLines_keeps {f : LineId → State → State} (keeps : ∀ n s, P s → P (f n s)) {s : State} (p : P s) : P (forLines f s) := by
  unfold Machine.forLines
  generalize allLines = ns
  induction ns generalizing s with
  | nil => exact p
  | cons n ns ih => exact ih (keeps n s p)

namespace ClosedFrame

theorem settleRace (h : ClosedFrame P) (before : State) (n : LineId) {s : State} (p : P s) : P (settleRace before n s) := by
  unfold Machine.settleRace
  have q : P { s with raceCount := s.raceCount + 1 } := h.shared p rfl
  split
  · dsimp only
    split
    · exact (h.on n).latch _ q
    · exact q
  · exact p

theorem expireLossHold (h : ClosedFrame P) {s : State} (p : P s) : P (expireLossHold s) :=
  forLines_keeps (fun n _ q => (h.on n).linkExpiry q) (h.shared p rfl)

theorem countLossHold (h : ClosedFrame P) {s : State} (p : P s) : P (countLossHold s) := by
  unfold Machine.countLossHold
  split
  · exact h.expireLossHold p
  · exact h.shared p rfl

theorem carry (h : ClosedFrame P) {s : State} (p : P s) : P (carry s) := by
  unfold Machine.carry
  split
  · exact p
  · exact forLines_keeps (fun n _ q => (h.on n).arrival _ _ q) (h.shared (h.carried p) rfl)

theorem lineFrames (h : ClosedFrame P) {s : State} (p : P s) : P (lineFrames s) := by
  unfold Machine.lineFrames
  refine forLines_keeps (fun n _ q => (h.on n).emitterFrame q) (forLines_keeps (fun n _ q => h.settleRace s n q) ?_)
  exact h.carry (h.countLossHold (forLines_keeps (fun n _ q => (h.on n).countFirstWait q) p))

theorem formLD (h : ClosedFrame P) {s : State} (p : P s) : P (formLD s) := by
  exact h.shared (h.paced p) rfl

end ClosedFrame

end Sys2Proof.Machine
end

