-- ==== Sys2Proof/Laws/RequestEffects.lean ====
section
/-! SUPPORT. What a request can do at its execution: it keeps every property that the updates keep, and leaves the reply queue, the
transmitter and the receiver alone. -/

namespace Sys2Proof.Machine

variable {P : State → Prop}

namespace ClosedRequest

theorem withLine (h : ClosedRequest P) (ps : List Byte) {s : State} {f : LineId → Executed} (p : P s)
    (g : ∀ n, P (f n).state) : P (withLine ps s f).state := by
  have _ := h
  unfold Machine.withLine
  split
  · split
    · exact g _
    · exact p
  · exact p

theorem withNothing (h : ClosedRequest P) (ps : List Byte) {s : State} {e : Executed} (p : P s) (g : P e.state) :
    P (withNothing ps s e).state := by
  have _ := h
  unfold Machine.withNothing
  split
  · exact g
  · exact p

theorem reqPartConfig (h : ClosedRequest P) (ps : List Byte) {s : State} (p : P s) : P (reqPartConfig ps s).state := by
  unfold Machine.reqPartConfig
  split
  · exact p
  · split
    · dsimp only
      split
      · exact p
      · rename_i c
        exact h.small (h.config (PartConfig.ofOctets ps) p (by by_contra x; exact c ⟨fun y => x (.inl y), fun y => x (.inr y)⟩)) rfl
    · exact p

theorem writeSettings (h : ClosedRequest P) (n : LineId) (x : LineSettings) {s : State} (p : P s) : P (writeSettings n x s) :=
  (h.on n).modLineMapped p (.keep rfl rfl rfl (EmissionStep.same _) rfl rfl)

theorem park (h : ClosedRequest P) (n : LineId) {s : State} (p : P s) : P (park n s) :=
  (h.on n).line _ ((h.on n).clear .idle p rfl (.inl rfl)) (.park (line_clearCall_self n .idle s))

theorem requestMode (h : ClosedRequest P) (n : LineId) (m : Mode) {s : State} (p : P s) : P (requestMode n m s).1 := by
  unfold Machine.requestMode
  dsimp only
  split
  · dsimp only
    split
    · exact p
    · exact h.park n p
  · split
    · exact (h.on n).line _ p .cancel
    · rename_i notParked other
      split
      · rename_i idle
        refine (h.on n).enterMode m p ?_ (.inl notParked)
        unfold Line.isIdle at idle
        split at idle
        · exact .inl (by simp at idle; simp [idle, Decoder.call])
        · exact .inr (by simp [*])
        · exact .inr (by simp [*])
      · rename_i busy
        refine (h.on n).line _ p (.defer m (fun e => busy ?_) notParked fun e => other e.symm)
        simp [Line.isIdle, e]

theorem reqLineConfig (h : ClosedRequest P) (ps : List Byte) {s : State} (p : P s) : P (reqLineConfig ps s).state := by
  unfold Machine.reqLineConfig
  split
  · exact p
  · split
    · exact p
    · split
      · split
        · exact h.requestMode _ _ (h.writeSettings _ _ p)
        · exact p
      · exact p

theorem reqProfileWrite (h : ClosedRequest P) (ps : List Byte) {s : State} (p : P s) : P (reqProfileWrite ps s).state := by
  unfold Machine.reqProfileWrite
  split
  · exact p
  · split
    · exact p
    · split
      · dsimp only
        split
        · exact p
        · split
          · exact h.profile ⟨_, ‹_›⟩ _ _ p ‹_›
          · exact p
      · exact p

theorem reqCursorSet (h : ClosedRequest P) (ps : List Byte) {s : State} (p : P s) : P (reqCursorSet ps s).state := by
  unfold Machine.reqCursorSet
  split
  · split
    · exact p
    · exact p
    · exact p
    · split
      · exact p
      · exact h.small p rfl
  · exact p

theorem bound_setEntries {α : Type} {size : Nat} (p : PagedSet α size) (g : Page) (es : Vector α size) :
    (p.setEntries g es).boundA = p.boundA ∧ (p.setEntries g es).boundB = p.boundB := by
  cases g <;> exact ⟨rfl, rfl⟩

theorem setTrans (h : ClosedRequest P) (k : Fin 8) (g : Page) (e : TransSet → Vector TransValue 20) {s : State} (p : P s) :
    P { s with xlat := vmod s.xlat k fun x => x.setEntries g (e x) } :=
  h.trans k _ p (bound_setEntries _ _ _).1 (bound_setEntries _ _ _).2

theorem setCode (h : ClosedRequest P) (k : Fin 4) (g : Page) (e : CodeSet → Vector CodeEntry 16) {s : State} (p : P s) :
    P { s with code := vmod s.code k fun x => x.setEntries g (e x) } :=
  h.code k _ p (bound_setEntries _ _ _).1 (bound_setEntries _ _ _).2

theorem reqTableWrite (h : ClosedRequest P) (ps : List Byte) {s : State} (p : P s) : P (reqTableWrite ps s).state := by
  unfold Machine.reqTableWrite
  split
  · unfold Machine.writeTrans
    split
    · exact p
    · split
      · exact p
      · split
        · exact p
        · split
          · exact p
          · rename_i es _ _
            exact h.small (h.setTrans _ s.cursor.page (fun x => vwrite (x.entries s.cursor.page) s.cursor.offset es) p) rfl
  · unfold Machine.writeCode
    split
    · exact p
    · split
      · exact p
      · split
        · exact p
        · split
          · exact p
          · rename_i es _ _
            exact h.small (h.setCode _ s.cursor.page (fun x => vwrite (x.entries s.cursor.page) s.cursor.offset es) p) rfl
  · unfold Machine.writeTones
    split
    · exact p
    · dsimp only
      split
      · exact p
      · rename_i raw _ _
        exact h.small (h.tones (vwrite s.tones s.cursor.offset ((toneEntries raw).map ToneEntry.clamped)) p) rfl

theorem reqTableRead (h : ClosedRequest P) (ps : List Byte) {s : State} (p : P s) : P (reqTableRead ps s).state := by
  unfold Machine.reqTableRead
  split
  · dsimp only
    split
    · exact p
    · split
      · exact p
      · split
        · exact p
        · exact h.small p rfl
  · exact p

theorem compareEntries (h : ClosedRequest P) (es : List Entry) (c : Bool) {s : State} (p : P s) :
    P (compareEntries es c s).state := by
  unfold Machine.compareEntries
  split <;> exact h.small p rfl

theorem reqTableCompare (h : ClosedRequest P) (ps : List Byte) {s : State} (p : P s) : P (reqTableCompare ps s).state := by
  unfold Machine.reqTableCompare
  split
  · exact p
  · split
    · exact p
    · split
      · exact p
      · split
        · exact p
        · exact h.compareEntries _ _ p

theorem reqTableClear (h : ClosedRequest P) (ps : List Byte) {s : State} (p : P s) : P (reqTableClear ps s).state := by
  refine h.withNothing ps p ?_
  split
  · split
    · exact p
    · exact h.setTrans _ _ (fun _ => Vector.replicate 20 .reject) p
  · split
    · exact p
    · exact h.setCode _ _ (fun _ => Vector.replicate 16 CodeEntry.cleared) p
  · exact h.tones _ p

theorem reqTableClearcheck (h : ClosedRequest P) (ps : List Byte) {s : State} (p : P s) : P (reqTableClearcheck ps s).state := by
  refine h.withNothing ps p ?_
  split <;> exact p

theorem onTransSet (h : ClosedRequest P) (k : Fin 8) (r : TransSet → Option RefusalCode) (f : TransSet → TransSet)
    (b : ∀ x, (f x).boundA = x.boundA ∧ (f x).boundB = x.boundB) {s : State} (p : P s) : P (onTransSet k r f s).state := by
  unfold Machine.onTransSet
  split
  · exact p
  · exact h.trans k f p (b _).1 (b _).2

theorem onCodeSet (h : ClosedRequest P) (k : Fin 4) (r : CodeSet → Option RefusalCode) (f : CodeSet → CodeSet)
    (b : ∀ x, (f x).boundA = x.boundA ∧ (f x).boundB = x.boundB) {s : State} (p : P s) : P (onCodeSet k r f s).state := by
  unfold Machine.onCodeSet
  split
  · exact p
  · exact h.code k f p (b _).1 (b _).2

theorem onSet (h : ClosedRequest P) (ps : List Byte) {s : State} {t : Fin 8 → Executed} {c : Fin 4 → Executed} (p : P s)
    (ht : ∀ k, P (t k).state) (hc : ∀ k, P (c k).state) : P (onSet ps s t c).state := by
  have _ := h
  unfold Machine.onSet
  split
  · split
    · exact p
    · split
      · exact p
      · exact ht _
      · exact hc _
      · exact p
  · exact p

theorem reqToneInsert (h : ClosedRequest P) (ps : List Byte) {s : State} (p : P s) : P (reqToneInsert ps s).state := by
  unfold Machine.reqToneInsert
  split
  · split
    · exact p
    · split
      · split
        · exact p
        · split
          · exact p
          · exact (h.on _).modEmissionInCall (fun e => { e with slot := some ⟨⟨_, ‹_›⟩, _, .waiting⟩ }) p ‹_› fun _ => rfl
      · exact p
  · exact p

theorem setHold (h : ClosedRequest P) (b : Bool) (n : LineId) {s : State} (p : P s) : P (setHold b n s).state := by
  unfold Machine.setHold
  split
  · exact p
  · exact (h.on n).modEmissionInCall (fun e => { e with hold := b }) p ‹_› fun _ => rfl

theorem reqSoftReset (h : ClosedRequest P) (ps : List Byte) {s : State} (p : P s) : P (reqSoftReset ps s).state := by
  refine h.withNothing ps p ?_
  split
  · exact p
  · exact h.small p rfl

theorem runRequest (h : ClosedRequest P) (k : RequestKind) (ps : List Byte) {s : State} (p : P s) :
    P (runRequest k ps s).state := by
  cases k with
  | identify => exact h.withNothing ps p p
  | partStatus => exact h.withNothing ps p (h.small p rfl)
  | partConfig => exact h.reqPartConfig ps p
  | lineStatus => exact h.withLine ps p fun n => (h.on n).line _ p (.data rfl rfl rfl rfl rfl)
  | lineConfig => exact h.reqLineConfig ps p
  | lineReset => exact h.withLine ps p fun n => (h.on n).lineReset p
  | profileWrite => exact h.reqProfileWrite ps p
  | profileRead =>
    show P (Machine.reqProfileRead ps s).state
    unfold Machine.reqProfileRead
    split
    · split <;> exact p
    · exact p
  | cursorSet => exact h.reqCursorSet ps p
  | tableWrite => exact h.reqTableWrite ps p
  | tableRead => exact h.reqTableRead ps p
  | tableCompare => exact h.reqTableCompare ps p
  | tableClear => exact h.reqTableClear ps p
  | tableClearcheck => exact h.reqTableClearcheck ps p
  | setSwap =>
    exact h.onSet ps p (fun k => h.onTransSet k PagedSet.lockRefusal PagedSet.swap (fun _ => ⟨rfl, rfl⟩) p)
      (fun k => h.onCodeSet k PagedSet.lockRefusal PagedSet.swap (fun _ => ⟨rfl, rfl⟩) p)
  | setLock =>
    exact h.onSet ps p (fun k => h.onTransSet k PagedSet.lockRefusal PagedSet.lock (fun _ => ⟨rfl, rfl⟩) p)
      (fun k => h.onCodeSet k PagedSet.lockRefusal PagedSet.lock (fun _ => ⟨rfl, rfl⟩) p)
  | setErase =>
    exact h.onSet ps p (fun k => h.onTransSet k PagedSet.eraseRefusal (PagedSet.erase .reject) (fun _ => ⟨rfl, rfl⟩) p)
      (fun k => h.onCodeSet k PagedSet.eraseRefusal (PagedSet.erase CodeEntry.cleared) (fun _ => ⟨rfl, rfl⟩) p)
  | toneInsert => exact h.reqToneInsert ps p
  | emitHold => exact h.withLine ps p fun n => h.setHold true n p
  | emitResume => exact h.withLine ps p fun n => h.setHold false n p
  | captureRead => exact h.withLine ps p fun n => (h.on n).line _ p (.data rfl rfl rfl rfl rfl)
  | qualityRead =>
    refine h.withLine ps p fun n => ?_
    show P (match (s.line n).config.meterMode with
      | .resetOnRead => s.modQuality n fun q => { q with extremes := none }
      | .hold => s)
    split
    · exact (h.on n).modQuality _ p
    · exact p
  | softReset => exact h.reqSoftReset ps p

theorem answerRequest (h : ClosedRequest P) (r : Request) {s : State} (p : P s) : P (answerRequest r s).state := by
  unfold Machine.answerRequest
  split
  · exact p
  · exact h.runRequest _ _ p

end ClosedRequest

/-! ## What no request touches -/

/-- The reply queue and the message being sent are not among the updates of a request. -/
theorem closedRequest_replies_tx (r : List Reply) (x : Option Transmission) : ClosedRequest fun s => s.replies = r ∧ s.tx = x where
  small := fun p q => by rw [q]; exact p
  on := fun n =>
    { attention := fun _ p => p
      line := fun _ p _ => p
      filter := fun _ p _ => p
      opening := fun p _ => p
      clear := fun d p _ _ => by
        unfold clearCall
        split
        · exact p
        all_goals exact p }
  config := fun _ p _ => p
  profile := fun _ _ _ p _ => p
  trans := fun _ _ p _ _ => p
  code := fun _ _ p _ _ => p
  tones := fun _ p => p

theorem replies_answerRequest (r : Request) (s : State) : (answerRequest r s).state.replies = s.replies :=
  ((closedRequest_replies_tx s.replies s.tx).answerRequest r ⟨rfl, rfl⟩).1

/-- The message being sent is not among what a request touches (R165, R168). -/
theorem tx_answerRequest (r : Request) (s : State) : (answerRequest r s).state.tx = s.tx :=
  ((closedRequest_replies_tx s.replies s.tx).answerRequest r ⟨rfl, rfl⟩).2

@[simp] theorem tx_execute (r : Request) (s : State) : (execute r s).tx = s.tx := tx_answerRequest r { s with slot := none }

/-- A request offered to an empty slot while the reply queue has room is executed at once (R164, R165). -/
theorem offer_ready (r : Request) {s : State} (free : s.slot = none) (room : s.replies.length < 4) :
    offer r s =
      { (answerRequest r s).state with
        replies := s.replies ++ [⟨r.tag, r.kind, (answerRequest r s).answer, (answerRequest r s).softReset⟩] } := by
  have e : ({ s with slot := none } : State) = s := by rw [← free]
  simp only [offer, free, runSlot, room, if_true, execute]
  rw [e, replies_answerRequest]

/-- The request that a well-formed request command offers. -/
theorem offerCommand_wf {c : Instr} (r : Request) (s : State) (h : c.wf = true) : offerCommand c r s = .next (offer r s) := by
  simp [offerCommand, h]

end Sys2Proof.Machine
end

