-- ==== Sys2Proof/Laws/StepEffects.lean ====
section
/-! SUPPORT. What a step can do: every property that the updates of `Closed` keep is kept by every command and every step. -/

namespace Sys2Proof.Machine

variable {P : State → Prop}

namespace LineClosed

/-! ## The events of one line -/

theorem expiryArrival {n : LineId} (h : LineClosed n P) (due : LineId → State → Bool) {s : State} (p : P s) :
    P (atArrival s (expiryArrival due n s)) := by
  refine atArrival_keeps p ?_
  unfold Machine.expiryArrival
  split
  · exact h.arrival _ _ p
  · exact p

theorem loopTransition {n : LineId} (h : LineClosed n P) {s t : State} (p : P s) (e : execLoopTransition n s = .next t) : P t := by
  unfold execLoopTransition at e
  cases e
  refine atArrival_keeps p ?_
  split
  · exact h.arrival _ _ p
  · exact p
  · exact p

theorem faultStateChange {n : LineId} (h : LineClosed n P) {s t : State} (p : P s) (e : execFaultStateChange n s = .next t) :
    P t := by
  unfold execFaultStateChange at e
  cases e
  refine atArrival_keeps p ?_
  split
  · exact h.arrival _ _ p
  · exact p

/-- A command that takes an event of line `n` keeps what the updates of line `n` keep, and MUTE_WAIT_LIMIT what those of its Voice
Selector keep. -/
theorem exec {n : LineId} (h : LineClosed n P) {c : Instr}
    (voice : c = .muteWaitLimit n → ∀ {s} (f : Line → Voice), P s → P (s.modLine n fun l => { l with voice := f l }))
    (on : eventLine c = some n) {s t : State} (p : P s) (e : exec c s = .next t) : P t := by
  cases c <;> simp only [eventLine, Option.some.injEq, reduceCtorEq] at on <;> subst on
  case loopTransition n => exact h.loopTransition p e
  case faultStateChange n => exact h.faultStateChange p e
  case seizeExpiry n => cases e; exact h.expiryArrival _ p
  case digitEndExpiry n => cases e; exact h.expiryArrival _ p
  case qualityWindowEnd n r =>
    change execQualityWindowEnd n r s = .next t at e
    unfold execQualityWindowEnd at e
    split at e
    · dsimp only at e
      cases e
      refine atArrival_keeps p ?_
      split
      · exact h.endWindow (h.applyReport r p)
      · exact p
    · cases e
  case dialIdleExpiry n => cases e; exact h.expiryArrival _ p
  case clearExpiry n => cases e; exact h.expiryArrival _ p
  case firstWaitEnd n =>
    change execFirstWaitEnd n s = .next t at e
    unfold execFirstWaitEnd at e
    cases e
    split
    · split
      · exact h.countFirstWait p
      · exact p
    · exact p
  case emitterTakeItem n => cases e; exact h.takeIfFree p
  case burstEnd n =>
    change execBurstEnd n s = .next t at e
    unfold execBurstEnd at e
    cases e
    split
    · rename_i x
      split
      · exact h.setEmitter _ p fun i => by rw [i] at x; simp [Emission.idle] at x
      · exact p
    · exact p
  case gapEnd n =>
    change execGapEnd n s = .next t at e
    unfold execGapEnd at e
    cases e
    split
    · rename_i x
      exact h.endGap p fun i => by rw [i] at x; simp [Emission.idle] at x
    · exact p
  case flashOpenEnd n =>
    change execFlashOpenEnd n s = .next t at e
    unfold execFlashOpenEnd at e
    cases e
    split
    · rename_i x
      exact h.setEmitter _ p fun i => by rw [i] at x; simp [Emission.idle] at x
    · exact p
  case guardEnd n =>
    change execGuardEnd n s = .next t at e
    unfold execGuardEnd at e
    cases e
    split
    · rename_i x
      exact h.setEmitter _ p fun i => by rw [i] at x; simp [Emission.idle] at x
    · exact p
  case muteWaitLimit n =>
    cases e
    show P (if _ then _ else _)
    split
    · exact voice rfl (fun l => { l.voice with mute := .muted }) p
    · exact p

end LineClosed

namespace ClosedQueue

/-! ## The Management Channel -/

/-- Execution at a reply queue with room. -/
theorem execute (h : ClosedQueue P) (r : Request) {s : State} (p : P s) (room : s.replies.length < 4) : P (execute r s) := by
  unfold Machine.execute
  dsimp only
  refine h.replies _ (h.toClosedRequest.answerRequest r (h.management p rfl)) ?_
  rw [replies_answerRequest]
  simp
  omega

theorem runSlot (h : ClosedQueue P) {s : State} (p : P s) : P (runSlot s) := by
  unfold Machine.runSlot
  split
  · exact p
  · split
    · exact h.execute _ p ‹_›
    · exact p

theorem offer (h : ClosedQueue P) (r : Request) {s : State} (p : P s) : P (offer r s) := by
  unfold Machine.offer
  split
  · exact h.runSlot (h.management p rfl)
  · exact h.raiseRequestDiscard p

theorem finishMessage (h : ClosedQueue P) (got : List Byte) (a b : Byte) {s : State} (p : P s) : P (finishMessage got a b s) := by
  unfold Machine.finishMessage
  have q : P { s with receiver := .seek } := h.management p rfl
  dsimp only
  split
  · split
    · exact h.offer _ q
    · exact q
  · exact h.raiseCheckFail q

theorem receiveOctet (h : ClosedQueue P) (b : Byte) {s : State} (p : P s) : P (receiveOctet b s) := by
  unfold Machine.receiveOctet
  split
  · split
    · exact h.management p rfl
    · exact p
  · split
    · exact h.management p rfl
    · exact h.raiseCheckFail (h.management p rfl)
  · exact h.management p rfl
  · exact h.management p rfl
  · exact h.finishMessage _ _ _ p

theorem softResetNow (h : ClosedQueue P) {s : State} (p : P s) : P (softResetNow s) := by
  have q : P (forLines Machine.lineReset s) := forLines_keeps (fun n _ q => (h.on n).lineReset q) p
  unfold Machine.softResetNow
  generalize Machine.forLines Machine.lineReset s = t at q
  exact h.management (h.replies [] q (by simp)) rfl

theorem startAttention (h : ClosedQueue P) {s : State} (p : P s) : P (startAttention s) := by
  unfold Machine.startAttention
  dsimp only
  split <;> exact h.management p rfl

theorem startReply (h : ClosedQueue P) {s : State} (p : P s) : P (startReply s) := by
  unfold Machine.startReply
  split
  · exact p
  · rename_i r rest e
    exact h.runSlot (h.management (h.replies rest p (by simp [e])) rfl)

theorem chooseNotice (h : ClosedQueue P) {s : State} (p : P s) : P (chooseNotice s) := by
  unfold Machine.chooseNotice
  split
  · exact h.startAttention p
  · exact p

theorem chooseMessage (h : ClosedQueue P) {s : State} (p : P s) : P (chooseMessage s) := by
  unfold Machine.chooseMessage
  dsimp only
  split
  · exact h.startReply (h.chooseNotice p)
  · exact h.chooseNotice p

theorem endMessage (h : ClosedQueue P) (b : Bool) {s : State} (p : P s) : P (endMessage b s) := by
  unfold Machine.endMessage
  split
  · exact h.softResetNow p
  · exact h.management p rfl

theorem sendOctet (h : ClosedQueue P) {s : State} (p : P s) : P (sendOctet s).2 := by
  unfold Machine.sendOctet
  have q : P (if s.tx.isNone then Machine.chooseMessage s else s) := by
    split
    · exact h.chooseMessage p
    · exact p
  dsimp only
  split
  · exact q
  · exact h.management q rfl
  · exact h.endMessage _ q
  · exact h.management q rfl

end ClosedQueue

namespace Closed

/-! ## Alignment -/

theorem hunt_notUp (a : Aligner) (bits : List Bool) (n : a.up = false) : (a.hunt bits).up = false := by
  induction bits generalizing a with
  | nil => exact n
  | cons b bits ih =>
    unfold Aligner.hunt
    dsimp only
    split
    · rfl
    · exact ih _ n

theorem setAligner (h : Closed P) (d : Direction) (a : Aligner) {s : State} (p : P s) (up : a.up = (s.aligner d).up) :
    P (s.setAligner d a) := by
  cases d with
  | lu => exact h.lu a p up
  | sd => exact h.sd a p up

theorem huntBits (h : Closed P) (d : Direction) (bits : List Bool) {s : State} (p : P s) : P (huntBits d bits s) := by
  unfold Machine.huntBits
  split
  · rename_i e
    have n : (s.aligner d).up = false := by simp [Aligner.up, e]
    exact h.setAligner d _ p (by rw [n, hunt_notUp _ _ n])
  · exact p

/-- A frame is delivered by a machine that is up. -/
theorem deliver (h : Closed P) (d : Direction) (f : Frame) {s : State} (p : P s) (up : (s.aligner d).up = true) :
    P (deliver d f s) := by
  cases d with
  | lu => exact h.luFrame _ p up
  | sd => exact h.receiveOctet _ (h.receiveOctet _ (h.sdFrame _ p up))

theorem lockOn (h : Closed P) (d : Direction) (f : Frame) {s : State} (p : P s) : P (lockOn d f s) := by
  unfold Machine.lockOn
  cases d with
  | lu => exact h.deliver .lu f (h.shared (h.luLock p) rfl) rfl
  | sd =>
    have q : P { s with sd := Aligner.lockedOn, clock := .sd } := h.sdLock p
    exact h.deliver .sd f (h.latchPart .sdLock q) rfl

theorem loseAlignment (h : Closed P) (d : Direction) {s : State} (p : P s) : P (loseAlignment d s) := by
  cases d with
  | lu => exact h.latchPart .luLoss (h.shared (h.luLoss p) rfl)
  | sd => exact h.latchPart .sdLoss (h.shared (h.sdLoss p) rfl)

theorem checkMarker (h : Closed P) (d : Direction) (f : Frame) {s : State} (p : P s) : P (checkMarker d f s) := by
  unfold Machine.checkMarker
  dsimp only
  split
  · exact p
  · rename_i e
    have n : (s.aligner d).up = false := by simp [Aligner.up, e]
    split
    · split
      · exact h.lockOn d f p
      · exact h.setAligner d _ p (by rw [n]; rfl)
    · exact h.setAligner d _ p (by rw [n]; rfl)
  all_goals
    rename_i e
    have u : (s.aligner d).up = true := by simp [Aligner.up, e]
    split
    · exact h.deliver d f (h.setAligner d _ p (by rw [u]; rfl)) (by cases d <;> rfl)
    · split
      · exact h.loseAlignment d p
      · exact h.deliver d f (h.setAligner d _ p (by rw [u]; rfl)) (by cases d <;> rfl)

/-! ## The output frame -/

theorem formSU (h : Closed P) {s : State} (p : P s) : P (formSU s) := by
  unfold Machine.formSU
  have q : P (forLines Machine.voiceFrame s) := forLines_keeps (fun n _ q => h.voice n _ q) p
  exact h.shared (h.sendOctet (h.sendOctet q)) rfl

theorem outputFrame (h : Closed P) {s : State} (p : P s) : P (outputFrame s) :=
  h.formSU (h.toClosedFrame.lineFrames (h.toClosedFrame.formLD p))

/-! ## Commands -/

theorem offerCommand (h : Closed P) (c : Instr) (r : Request) {s t : State} (p : P s)
    (e : Machine.offerCommand c r s = .next t) : P t := by
  unfold Machine.offerCommand at e
  split at e
  · cases e
    exact h.offer r p
  · cases e

/-- Every command keeps what the updates keep. -/
theorem exec (h : Closed P) (c : Instr) {s t : State} (p : P s) (e : exec c s = .next t) : P t := by
  cases c with
  | powerOnReset => cases e; exact h.reset p
  | huntMarkerFound d bits => cases e; exact h.huntBits d bits p
  | markerCheck d slots =>
    change execMarkerCheck d slots s = .next t at e
    unfold execMarkerCheck at e
    split at e
    · cases e; exact h.huntBits d _ p
    · cases e; exact h.huntBits d _ (h.checkMarker d _ p)
  | alignmentLock d slots =>
    cases e
    show P (if _ then _ else _)
    split
    · exact h.lockOn d _ p
    · exact p
  | alignmentLoss d =>
    cases e
    show P (if _ then _ else _)
    split
    · exact h.loseAlignment d p
    · exact p
  | outputFrame =>
    cases e
    show P (if _ then _ else _)
    split
    · exact h.outputFrame p
    · exact p
  | loopTransition n => exact (h.on n).exec (fun _ => h.voice n) rfl p e
  | faultStateChange n => exact (h.on n).exec (fun _ => h.voice n) rfl p e
  | seizeExpiry n => exact (h.on n).exec (fun _ => h.voice n) rfl p e
  | digitEndExpiry n => exact (h.on n).exec (fun _ => h.voice n) rfl p e
  | qualityWindowEnd n r => exact (h.on n).exec (fun _ => h.voice n) rfl p e
  | dialIdleExpiry n => exact (h.on n).exec (fun _ => h.voice n) rfl p e
  | clearExpiry n => exact (h.on n).exec (fun _ => h.voice n) rfl p e
  | lossHoldExpiry =>
    cases e
    show P (if _ then _ else _)
    split
    · exact h.toClosedFrame.expireLossHold p
    · exact p
  | firstWaitEnd n => exact (h.on n).exec (fun _ => h.voice n) rfl p e
  | emitterTakeItem n => exact (h.on n).exec (fun _ => h.voice n) rfl p e
  | burstEnd n => exact (h.on n).exec (fun _ => h.voice n) rfl p e
  | gapEnd n => exact (h.on n).exec (fun _ => h.voice n) rfl p e
  | flashOpenEnd n => exact (h.on n).exec (fun _ => h.voice n) rfl p e
  | guardEnd n => exact (h.on n).exec (fun _ => h.voice n) rfl p e
  | muteWaitLimit n => exact (h.on n).exec (fun _ => h.voice n) rfl p e
  | replyStart =>
    cases e
    show P (if _ then _ else _)
    split
    · exact h.startReply (h.chooseNotice p)
    · exact p
  | attention => cases e; exact h.chooseNotice p
  | softResetAction =>
    change execSoftResetAction s = .next t at e
    unfold execSoftResetAction at e
    cases e
    split
    · exact h.softResetNow p
    · exact p
  | identify tag ps => exact h.offerCommand _ _ p e
  | partStatus tag ps => exact h.offerCommand _ _ p e
  | partConfigRead tag =>
    exact h.offerCommand (.partConfigRead tag) ⟨RequestKind.partConfig.code, tag, []⟩ p e
  | partConfigWrite tag ps => exact h.offerCommand _ _ p e
  | lineStatus tag ps => exact h.offerCommand _ _ p e
  | lineConfig tag ps => exact h.offerCommand _ _ p e
  | lineReset tag ps => exact h.offerCommand _ _ p e
  | profileWrite tag ps => exact h.offerCommand _ _ p e
  | profileRead tag ps => exact h.offerCommand _ _ p e
  | cursorSet tag ps => exact h.offerCommand _ _ p e
  | tableWrite tag ps => exact h.offerCommand _ _ p e
  | tableRead tag ps => exact h.offerCommand _ _ p e
  | tableCompare tag ps => exact h.offerCommand _ _ p e
  | tableClear tag ps => exact h.offerCommand _ _ p e
  | tableClearcheck tag ps => exact h.offerCommand _ _ p e
  | setSwap tag ps => exact h.offerCommand _ _ p e
  | setLock tag ps => exact h.offerCommand _ _ p e
  | setErase tag ps => exact h.offerCommand _ _ p e
  | toneInsert tag ps => exact h.offerCommand _ _ p e
  | emitHold tag ps => exact h.offerCommand _ _ p e
  | emitResume tag ps => exact h.offerCommand _ _ p e
  | captureRead tag ps => exact h.offerCommand _ _ p e
  | qualityRead tag ps => exact h.offerCommand _ _ p e
  | softReset tag ps => exact h.offerCommand _ _ p e
  | unknownRequest k tag ps => exact h.offerCommand _ _ p e

/-- Every step keeps what the updates and a change of the command queue keep. -/
theorem step (h : Closed P) (queue : ∀ s q, P s → P { s with pending := q }) {s t : State} (p : P s)
    (e : step s = .next t) : P t := by
  unfold Machine.step at e
  split at e
  · cases e; exact p
  · rename_i rest _
    exact h.exec _ (queue s rest p) e

end Closed

end Sys2Proof.Machine
end

