-- ==== Sys2Proof/Laws/Lines.lean ====
section
/-! SUPPORT. The 48 lines in turn, and counts over them. -/

namespace Sys2Proof.Machine

theorem mem_allLines (n : LineId) : n ∈ allLines := List.mem_finRange n

theorem nodup_allLines : allLines.Nodup := List.nodup_finRange 48

/-- Doing something to every line, where each turn changes only its own line and by what that line holds. -/
theorem line_forLines {f : LineId → State → State} {g : LineId → Line → Line}
    (own : ∀ n s, (f n s).line n = g n (s.line n)) (other : ∀ n m s, m ≠ n → (f n s).line m = s.line m) (s : State)
    (n : LineId) : (forLines f s).line n = g n (s.line n) := by
  have key : ∀ (ns : List LineId) (s : State), ns.Nodup → n ∈ ns → (ns.foldl (fun t k => f k t) s).line n = g n (s.line n) := by
    intro ns
    induction ns with
    | nil => intro s _ h; cases h
    | cons k ns ih =>
      intro s nd h
      rw [List.foldl_cons]
      rw [List.nodup_cons] at nd
      by_cases e : n = k
      · subst e
        have rest : ∀ (ks : List LineId) (t : State), n ∉ ks → (ks.foldl (fun t k => f k t) t).line n = t.line n := by
          intro ks
          induction ks with
          | nil => intro t _; rfl
          | cons j ks ihk =>
            intro t nk
            rw [List.foldl_cons, ihk _ fun x => nk (List.mem_cons_of_mem _ x)]
            exact other j n t fun x => nk (x ▸ List.mem_cons_self)
        rw [rest ns _ nd.1, own]
      · rw [ih _ nd.2 ((List.mem_cons.mp h).resolve_left e), other k n s e]
  exact key allLines s nodup_allLines (mem_allLines n)

/-- Doing something to every line, seen from one of them: if every other line's turn keeps what this line's turn depends on, the whole
comes to this line's turn alone. -/
theorem rel_forLines {R : State → State → Prop} {f : LineId → State → State} {n : LineId}
    (own : ∀ {s t}, R s t → R (f n s) (f n t)) (other : ∀ {s t} m, n ≠ m → R s t → R s (f m t)) {s : State} (r : R s s) :
    R (f n s) (forLines f s) := by
  have rest : ∀ (ns : List LineId) {s t : State}, n ∉ ns → R s t → R s (ns.foldl (fun t k => f k t) t) := by
    intro ns
    induction ns with
    | nil => intro s t _ r; exact r
    | cons k ns ih =>
      intro s t h r
      rw [List.foldl_cons]
      exact ih (fun x => h (List.mem_cons_of_mem _ x)) (other k (fun e => h (e ▸ List.mem_cons_self)) r)
  have key : ∀ (ns : List LineId) {s t : State}, ns.Nodup → n ∈ ns → R s t → R (f n s) (ns.foldl (fun t k => f k t) t) := by
    intro ns
    induction ns with
    | nil => intro s t _ h; cases h
    | cons k ns ih =>
      intro s t nd h r
      rw [List.foldl_cons]
      rw [List.nodup_cons] at nd
      by_cases e : n = k
      · subst e
        exact rest ns nd.1 (own r)
      · exact ih nd.2 ((List.mem_cons.mp h).resolve_left e) (other k e r)
  exact key allLines nodup_allLines (mem_allLines n) r

/-- Doing something to every line keeps a field that each turn keeps. -/
theorem field_forLines {β : Type} {f : LineId → State → State} {v : State → β} (same : ∀ n s, v (f n s) = v s) (s : State) :
    v (forLines f s) = v s := by
  unfold forLines
  generalize allLines = ns
  induction ns generalizing s with
  | nil => rfl
  | cons n ns ih => exact (ih (f n s)).trans (same n s)

/-- Counts over the lines that differ at one line only. -/
theorem countP_allLines {p q : LineId → Bool} (n : LineId) (h : ∀ m, m ≠ n → p m = q m) :
    allLines.countP p + (q n).toNat = allLines.countP q + (p n).toNat := by
  have key : ∀ ns : List LineId, ns.Nodup → n ∈ ns → ns.countP p + (q n).toNat = ns.countP q + (p n).toNat := by
    intro ns
    induction ns with
    | nil => intro _ h; cases h
    | cons k ns ih =>
      intro nd m
      rw [List.nodup_cons] at nd
      by_cases e : n = k
      · subst e
        have same : ns.countP p = ns.countP q := List.countP_congr fun m hm => by
          rw [h m fun x => nd.1 (x ▸ hm)]
        simp only [List.countP_cons, same]
        cases p n <;> cases q n <;> simp
      · have := ih nd.2 ((List.mem_cons.mp m).resolve_left e)
        simp only [List.countP_cons, h k fun x => e x.symm]
        omega
  exact key allLines nodup_allLines (mem_allLines n)

end Sys2Proof.Machine
end

