-- ==== Sys2Proof/Laws/Keeps.lean ====
section
/-! SUPPORT. What the transmitter and the lines' part of an output frame leave alone: the Voice Selectors' states and, for the
transmitter, the ports. -/

namespace Sys2Proof.Machine

/-! ## The Voice Selectors -/

/-- Every line's Voice Selector holds what `v` gives. -/
def State.voicesAre (v : LineId → Voice) (s : State) : Prop := ∀ n, (s.line n).voice = v n

theorem voicesAre_modLine {v : LineId → Voice} {s : State} {n : LineId} {f : Line → Line} (p : s.voicesAre v)
    (same : (f (s.line n)).voice = (s.line n).voice) : (s.modLine n f).voicesAre v := by
  intro m
  rw [line_modLine]
  split
  · rename_i e
    subst e
    rw [same]
    exact p _
  · exact p m

theorem closedBody_voicesAre (v : LineId → Voice) : ClosedBody (State.voicesAre v) where
  on n :=
    { attention := fun _ p => p
      line := fun _ p g => voicesAre_modLine p g.voice
      filter := fun _ p g => voicesAre_modLine p g.voice
      opening := fun p _ => voicesAre_modLine (s := State.bindPages _ _ _) p rfl
      clear := fun {s} d p _ _ => by
        unfold clearCall
        split
        · exact voicesAre_modLine (s := State.unbindPages _ _ _) p rfl
        all_goals exact voicesAre_modLine p rfl }
  small p e := by rw [e]; exact p
  config _ p _ := p
  profile _ _ _ p _ := p
  trans _ _ p _ _ := p
  code _ _ p _ _ := p
  tones _ p := p
  management p e := by rw [e]; exact p

theorem closedQueue_voicesAre (v : LineId → Voice) : ClosedQueue (State.voicesAre v) where
  toClosedBody := closedBody_voicesAre v
  replies _ p _ := p

theorem closedFrame_voicesAre (v : LineId → Voice) : ClosedFrame (State.voicesAre v) where
  toClosedBody := closedBody_voicesAre v
  ports p e := by rw [e]; exact p
  paced p := p
  carried p := p

/-- An octet sent, with the requests and the soft reset that it may bring, changes no Voice Selector (R149, R168, R172). -/
theorem voice_sendOctet (s : State) (n : LineId) : ((sendOctet s).2.line n).voice = (s.line n).voice :=
  (closedQueue_voicesAre fun n => (s.line n).voice).sendOctet (fun _ => rfl) n

/-- The lines' part of an output frame leaves the Voice Selectors as they were. -/
theorem voice_lineFrames (s : State) (n : LineId) : ((lineFrames s).line n).voice = (s.line n).voice :=
  (closedFrame_voicesAre fun n => (s.line n).voice).lineFrames (fun _ => rfl) n

/-- The Voice Selectors go forward each from its own line, the LU machine and the last carried samples (R139, R141). -/
theorem line_forLines_voiceFrame (s : State) (n : LineId) : (forLines voiceFrame s).line n =
    { s.line n with
      voice := ⟨(s.line n).voice.mute.forward (s.sourcesOf n) (s.lastVoice.get n), (s.line n).hook, (s.line n).faultMark,
        s.sourcesOf n⟩ } := by
  have r := rel_forLines (R := fun s t => t.line n = s.line n ∧ t.lastVoice = s.lastVoice ∧ t.lu = s.lu) (f := voiceFrame) (n := n)
    (fun ⟨a, b, c⟩ => ⟨by simp [voiceFrame, a, b, State.sourcesOf, c], b, c⟩)
    (fun m o ⟨a, b, c⟩ => ⟨by simp [voiceFrame, line_modLine_other _ _ o, a], b, c⟩) (s := s) ⟨rfl, rfl, rfl⟩
  rw [r.1]
  simp [voiceFrame]

/-- What the forming of the SU frame comes to (R139, R168). -/
theorem formSU_eq (s v : State) (e : v = forLines voiceFrame s) : formSU s =
    { (sendOctet (sendOctet v).2).2 with
      su := ⟨markerWord, (sendOctet v).1, (sendOctet (sendOctet v).2).1, vtab v.suChannel⟩ } := by
  subst e
  rfl

/-! ## The ports -/

/-- The two states agree in the ports and the clock. -/
structure SamePorts (s t : State) : Prop where
  lu : t.lu = s.lu
  sd : t.sd = s.sd
  clock : t.clock = s.clock
  lossHold : t.lossHold = s.lossHold
  waiting : t.waiting = s.waiting
  paced : t.paced = s.paced
  lastVoice : t.lastVoice = s.lastVoice
  su : t.su = s.su
  ld : t.ld = s.ld
  pending : t.pending = s.pending

theorem SamePorts.refl (s : State) : SamePorts s s := ⟨rfl, rfl, rfl, rfl, rfl, rfl, rfl, rfl, rfl, rfl⟩

theorem SamePorts.of {s t u : State} (p : SamePorts s t) (lu : u.lu = t.lu) (sd : u.sd = t.sd) (clock : u.clock = t.clock)
    (lossHold : u.lossHold = t.lossHold) (waiting : u.waiting = t.waiting) (paced : u.paced = t.paced)
    (lastVoice : u.lastVoice = t.lastVoice) (su : u.su = t.su) (ld : u.ld = t.ld) (pending : u.pending = t.pending) : SamePorts s u :=
  ⟨lu.trans p.lu, sd.trans p.sd, clock.trans p.clock, lossHold.trans p.lossHold, waiting.trans p.waiting, paced.trans p.paced,
    lastVoice.trans p.lastVoice, su.trans p.su, ld.trans p.ld, pending.trans p.pending⟩

theorem closedQueue_samePorts (s : State) : ClosedQueue (SamePorts s) where
  on n :=
    { attention := fun _ p => p.of rfl rfl rfl rfl rfl rfl rfl rfl rfl rfl
      line := fun _ p _ => p.of rfl rfl rfl rfl rfl rfl rfl rfl rfl rfl
      filter := fun _ p _ => p.of rfl rfl rfl rfl rfl rfl rfl rfl rfl rfl
      opening := fun p _ => p.of rfl rfl rfl rfl rfl rfl rfl rfl rfl rfl
      clear := fun {t} d p _ _ => by
        unfold clearCall
        split <;> exact p.of rfl rfl rfl rfl rfl rfl rfl rfl rfl rfl }
  small p e := by rw [e]; exact p.of rfl rfl rfl rfl rfl rfl rfl rfl rfl rfl
  config _ p _ := p.of rfl rfl rfl rfl rfl rfl rfl rfl rfl rfl
  profile _ _ _ p _ := p.of rfl rfl rfl rfl rfl rfl rfl rfl rfl rfl
  trans _ _ p _ _ := p.of rfl rfl rfl rfl rfl rfl rfl rfl rfl rfl
  code _ _ p _ _ := p.of rfl rfl rfl rfl rfl rfl rfl rfl rfl rfl
  tones _ p := p.of rfl rfl rfl rfl rfl rfl rfl rfl rfl rfl
  management p e := by rw [e]; exact p.of rfl rfl rfl rfl rfl rfl rfl rfl rfl rfl
  replies _ p _ := p.of rfl rfl rfl rfl rfl rfl rfl rfl rfl rfl

/-- An octet sent leaves the ports alone (R168, R172). -/
theorem samePorts_sendOctet (s : State) : SamePorts s (sendOctet s).2 := (closedQueue_samePorts s).sendOctet (.refl s)

/-- A request leaves the ports alone (R16, R173). -/
theorem samePorts_answerRequest (r : Request) (s : State) : SamePorts s (answerRequest r s).state :=
  (closedQueue_samePorts s).answerRequest r (.refl s)

/-- What every line does in turn within a frame leaves the ports alone. -/
theorem samePorts_forLines {f : LineId → State → State} {s t : State} (keeps : ∀ n u, SamePorts s u → SamePorts s (f n u))
    (p : SamePorts s t) : SamePorts s (forLines f t) := forLines_keeps keeps p

theorem samePorts_settleRace (before : State) (n : LineId) {s t : State} (p : SamePorts s t) : SamePorts s (settleRace before n t) := by
  have q : SamePorts s { t with raceCount := t.raceCount + 1 } := p.of rfl rfl rfl rfl rfl rfl rfl rfl rfl rfl
  unfold settleRace
  split
  · dsimp only
    split
    · exact ((closedQueue_samePorts s).on n).latch _ q
    · exact q
  · exact p

/-- A loss hold that counts or completes changes no other part of the ports (R13, R14). -/
theorem samePorts_countLossHold (s : State) : SamePorts
    { s with lossHold := if lossHoldDue s then none else s.lossHold.map fun h => { h with counted := h.counted + 1 } } (countLossHold s) := by
  unfold countLossHold
  by_cases due : lossHoldDue s = true
  · simp only [due, if_true]
    exact samePorts_forLines (fun n _ p => ((closedQueue_samePorts _).on n).linkExpiry p) (.refl _)
  · simp only [due]
    exact .refl _

/-- A carried frame empties the waiting place and keeps its voice samples; nothing else of the ports changes (R10). -/
theorem samePorts_carry (s : State) : SamePorts
    (match s.waiting with
      | none => s
      | some cs => { s with waiting := none, lastVoice := vtab fun n => (cs.get n).voice }) (carry s) := by
  unfold carry
  cases s.waiting with
  | none => exact .refl _
  | some cs => exact samePorts_forLines (fun n _ p => ((closedQueue_samePorts _).on n).arrival _ _ p) (.refl _)

end Sys2Proof.Machine
end

