-- ==== Sys2Proof/Laws/OneLine.lean ====
section
/-! SUPPORT. Updates of one line, one after another, and what the samples of an arrival, the taking of a pending mode and the
line-time rows come to. -/

namespace Sys2Proof.Machine

/-- Two changes of one line are one change of it. -/
theorem modLine_modLine (s : State) (n : LineId) (f g : Line → Line) : (s.modLine n f).modLine n g = s.modLine n fun l => g (f l) := by
  have : vmod (vmod s.lines n f) n g = vmod s.lines n fun l => g (f l) := by
    show (vmod s.lines n f).set n.val (g ((vmod s.lines n f).get n)) n.isLt = _
    rw [vget_vmod_self]
    simp [vmod]
  simp [State.modLine, this]

/-- A change of one line that leaves it as it is changes nothing. -/
theorem modLine_id (s : State) (n : LineId) {f : Line → Line} (h : f (s.line n) = s.line n) : s.modLine n f = s := by
  rw [modLine_congr s n (g := fun l => l) h]
  simp [State.modLine, vmod, Vector.get]

theorem taken_of_none {c : LineConfig} (h : c.pendingMode = none) : c.taken = c := by
  cases c
  simp_all [LineConfig.taken]

/-- R28: a pending mode that is not CONVERT is taken by the configuration alone, the decoder being in IDLE. -/
theorem becomeIdle_eq {n : LineId} {s : State} (d : (s.line n).decoder = .idle) (p : (s.line n).config.pendingMode ≠ some .convert) :
    becomeIdle n s = s.modLine n fun l => { l with config := l.config.taken } := by
  rcases q : (s.line n).config.pendingMode with _ | m
  · simp only [becomeIdle, q]
    exact (modLine_id s n (by simp [taken_of_none q])).symm
  · have hm : m ≠ .convert := fun e => p (by rw [q, e])
    simp only [becomeIdle, q, enterMode]
    exact modLine_congr s n (by simp [LineConfig.taken, q, hm, d])

/-! ## What the samples of a line bring -/

/-- R34: one more contrary sample confirms the transition. -/
theorem contrary_of_confirms {n : LineId} {s : State} (h : s.confirms n) :
    (s.line n).filter.contrary ((s.line n).filter.protection (s.profileOf n)) =
      ((s.line n).filter.turned, .confirmed (s.line n).filter.loop.other (s.line n).filter.endedLength) := by
  unfold State.confirms at h
  simp only [Filter.contrary, satAdd]
  rw [if_neg (by omega)]
  rfl

theorem takeLoop_agreeing (f : Filter) (p : Profile) : f.takeLoop p f.stableSample = f.agree := by
  rcases f with ⟨⟨⟩, _⟩ <;> simp [Filter.takeLoop, Filter.stableSample, LoopState.ofSample]

theorem takeLoop_contrary (f : Filter) (p : Profile) : f.takeLoop p (!f.stableSample) = f.contrary (f.protection p) := by
  rcases f with ⟨⟨⟩, _⟩ <;> simp [Filter.takeLoop, Filter.stableSample, LoopState.ofSample]

/-- R42, R47: the contrary L sample that confirms a transition. -/
theorem loopSample_confirms {n : LineId} {s : State} (h : s.confirms n) : loopSample n (!(s.line n).filter.stableSample) s =
    consumeLoop n (.confirmed (s.line n).filter.loop.other (s.line n).filter.endedLength)
      (s.setFilter n (s.line n).filter.turned) := by
  simp [loopSample, takeLoop_contrary, contrary_of_confirms h]

/-- R35, R47: an agreeing L sample on a CONVERT line. -/
theorem loopSample_agreeing {n : LineId} {s : State} (convert : (s.line n).config.mode = .convert) :
    loopSample n (s.line n).filter.stableSample s = laterSteps n ⟨agreeingSample n s, false⟩ := by
  simp only [loopSample, takeLoop_agreeing, consumeLoop, setFilter_eq, line_modLine_self, convert, decodeArrival, agreeingSample]
  by_cases r : (s.line n).filter.run = 0 <;> simp [Filter.agree, r, takeLoopResult]

/-- R33: the L half of an arrival leaves the filter as the L sample left it. -/
theorem filter_loopSample (n : LineId) (l : Bool) (s : State) :
    ((loopSample n l s).line n).filter = ((s.line n).filter.takeLoop (s.profileOf n) l).1 := by
  have h : DecoderClosed n fun t => (t.line n).filter = ((s.line n).filter.takeLoop (s.profileOf n) l).1 := {
    attention := fun _ p => p
    line := fun f p g => by rw [line_modLine_self, g.filter, p]
    opening := fun p _ => by rw [openCall, line_modLine_self]; exact p
    clear := fun d p _ _ => by rw [filter_clearCall, p] }
  have q := line_modLine_self s n fun k => { k with filter := ((s.line n).filter.takeLoop (s.profileOf n) l).1 }
  exact h.consumeLoop _ (congrArg Line.filter q)

/-! ## Steps 2 to 5 of R47 -/

/-- A decoder in IDLE or FAULT has no timer and no dial-idle count. -/
theorem laterSteps_noCall {n : LineId} {s : State} (fresh : Bool) (h : (s.line n).decoder = .idle ∨ (s.line n).decoder = .fault) :
    laterSteps n ⟨s, fresh⟩ = s := by
  have t : takeTimers n s = ⟨s, false⟩ := by
    rcases h with h | h <;> simp [takeTimers, seizeDue, clearDue, digitEndDue, h]
  have c : countDialIdle n s = s := modLine_id s n (by
    rcases h with h | h <;> rw [h] <;> simp only [Decoder.mapCall] <;> rw [← h])
  have d : dialIdleDue n s = false := by rcases h with h | h <;> simp [dialIdleDue, callOf_eq, h, Decoder.call]
  cases fresh <;> simp [laterSteps, t, takeDialIdle, d, c]

/-- A decoder in OFFHOOK has no timer. -/
theorem laterSteps_offhook {n : LineId} {s : State} {c : Call} (h : (s.line n).decoder = .inCall (.closed .offhook) c) :
    laterSteps n ⟨s, false⟩ = takeDialIdle n s ∧ laterSteps n ⟨s, true⟩ = s := by
  have t : takeTimers n s = ⟨s, false⟩ := by simp [takeTimers, seizeDue, clearDue, digitEndDue, h]
  simp [laterSteps, t]

/-- R40: a G sample that agrees with F empties the fault run. -/
theorem faultSample_same {n : LineId} {s : State} (g : Bool) (e : g = (s.line n).filter.fault) : faultSample n g s =
    exitFault n (s.modLine n fun l => { l with filter := { l.filter with faultRun := 0 } }) := by
  subst e
  simp only [faultSample, Filter.takeFault, if_true, setFilter_eq]
  exact congrArg _ (modLine_congr s n rfl)

/-- R68: there is no exit unless the decoder is in FAULT with F at 0 and the loop OPEN. -/
theorem exitFault_stays {n : LineId} {s : State}
    (h : (s.line n).decoder ≠ .fault ∨ (s.line n).filter.fault = true ∨ (s.line n).filter.loop = .closed) : exitFault n s = s := by
  unfold exitFault
  rw [if_neg]
  rintro ⟨a, b, c⟩
  rcases h with h | h | h
  · exact h a
  · rw [h] at b; cases b
  · rw [h] at c; cases c

/-! ## The line-time rows -/

/-- LOOP_TRANSITION where LU is up and the transition is confirmed is that arrival. -/
theorem exec_loopTransition_confirms {n : LineId} {s : State} (up : s.lu.up = true) (h : s.confirms n) :
    exec (.loopTransition n) s =
      .next (faultSample n (s.line n).filter.fault (loopSample n (!(s.line n).filter.stableSample) s)) := by
  simp [exec, execLoopTransition, contrary_of_confirms h, up, arrival]

/-- FAULT_STATE_CHANGE where LU is up and the fault run is one short of 16 is that arrival. -/
theorem exec_faultStateChange_due {n : LineId} {s : State} (up : s.lu.up = true) (h : 15 ≤ (s.line n).filter.faultRun) :
    exec (.faultStateChange n) s =
      .next (faultSample n (!(s.line n).filter.fault) (loopSample n (s.line n).filter.stableSample s)) := by
  have h' : ¬ (s.line n).filter.faultRun + 1 < 16 := by omega
  simp [exec, execFaultStateChange, Filter.takeFault, h', up, arrival]

/-- A timer row where LU is up and its timer is due on a CONVERT line is that arrival. -/
theorem expiryArrival_due {due : LineId → State → Bool} {n : LineId} {s : State} (up : s.lu.up = true)
    (convert : (s.line n).config.mode = .convert) (h : due n (agreeingSample n s) = true) :
    atArrival s (expiryArrival due n s) =
      faultSample n (s.line n).filter.fault (laterSteps n ⟨agreeingSample n s, false⟩) := by
  simp [expiryArrival, agreeingArrival, arrival, convert, h, up, loopSample_agreeing convert]

end Sys2Proof.Machine
end

