-- ==== Sys2Proof/Laws/FrameEffects.lean ====
section
/-! SUPPORT. What an output frame does to the lines when it carries no LU frame and its two octet positions execute no request and end no
SOFT-RESET reply. -/

namespace Sys2Proof.Machine

/-! ## The octet positions -/

/-- Every message has at least three octets. -/
theorem messageOctets_cons (body : List Byte) : ∃ c d r, messageOctets body = 0xC3 :: c :: d :: r := by
  cases body with
  | nil => exact ⟨_, _, _, rfl⟩
  | cons b bs => exact ⟨_, _, _, rfl⟩

/-- The two states agree in the lines and the loss hold. -/
structure SameLines (u t : State) : Prop where
  lines : t.lines = u.lines
  hold : t.lossHold = u.lossHold

/-- The request slot is not among what a request touches. -/
theorem slot_answerRequest (r : Request) (s : State) : (answerRequest r s).state.slot = s.slot := by
  have h : ClosedRequest fun t => t.slot = s.slot := {
    on := fun n => { attention := fun _ p => p, line := fun _ p _ => p, filter := fun _ p _ => p, opening := fun p _ => p
                     clear := fun d p _ _ => by unfold clearCall; split <;> exact p }
    small := fun p q => by rw [q]; exact p
    config := fun _ p _ => p, profile := fun _ _ _ p _ => p, trans := fun _ _ p _ _ => p
    code := fun _ _ p _ _ => p, tones := fun _ p => p }
  exact h.answerRequest r rfl

/-- Execution empties the request slot (R165). -/
theorem slot_execute (r : Request) (s : State) : (execute r s).slot = none := slot_answerRequest r { s with slot := none }

/-- A notice begun touches no line and executes nothing (R168). -/
theorem chooseNotice_effect (u : State) : SameLines u (chooseNotice u) ∧ (chooseNotice u).slot = u.slot ∧
    ((chooseNotice u).tx = u.tx ∨ ∃ body, (chooseNotice u).tx = some ⟨messageOctets body, false⟩) := by
  unfold chooseNotice
  split
  · unfold startAttention
    dsimp only
    split
    · exact ⟨⟨rfl, rfl⟩, rfl, .inl rfl⟩
    · exact ⟨⟨rfl, rfl⟩, rfl, .inr ⟨_, rfl⟩⟩
  · exact ⟨⟨rfl, rfl⟩, rfl, .inl rfl⟩

/-- A reply begun executes the waiting request, which empties the slot, or touches no line (R165, R168). -/
theorem startReply_effect (u : State) (n : u.tx = none) :
    ((startReply u).slot = none ∨ (SameLines u (startReply u) ∧ (startReply u).slot = u.slot)) ∧
    ((startReply u).tx = none ∨ ∃ body f, (startReply u).tx = some ⟨messageOctets body, f⟩) := by
  unfold startReply
  split
  · exact ⟨.inr ⟨⟨rfl, rfl⟩, rfl⟩, .inl n⟩
  · rename_i r rest e
    unfold runSlot
    split
    · exact ⟨.inr ⟨⟨rfl, rfl⟩, rfl⟩, .inr ⟨_, _, rfl⟩⟩
    · split
      · refine ⟨.inl (slot_execute _ _), .inr ⟨r.body, r.softReset, ?_⟩⟩
        exact tx_execute _ _
      · exact ⟨.inr ⟨⟨rfl, rfl⟩, rfl⟩, .inr ⟨_, _, rfl⟩⟩

/-- A reply begun with the request slot empty touches no line. -/
theorem startReply_idleSlot (u : State) (n : u.slot = none) : SameLines u (startReply u) ∧ (startReply u).slot = none := by
  unfold startReply
  split
  · exact ⟨⟨rfl, rfl⟩, n⟩
  · unfold runSlot
    split
    · exact ⟨⟨rfl, rfl⟩, n⟩
    · rename_i q
      have q' : u.slot = some _ := q
      rw [n] at q'; cases q'

/-- An octet position that does not end a SOFT-RESET reply executes the waiting request, which empties the slot, or touches no line; and it
brings no SOFT-RESET reply nearer its end than one octet (R168, R172). -/
theorem sendOctet_effect (u : State) (h : ∀ rest, u.tx = some ⟨rest, true⟩ → 1 < rest.length) :
    (((sendOctet u).2.slot = none ∧ u.slot ≠ none) ∨ (SameLines u (sendOctet u).2 ∧ (sendOctet u).2.slot = u.slot)) ∧
    (∀ rest, (sendOctet u).2.tx = some ⟨rest, true⟩ → 1 < rest.length ∨ ∃ x, u.tx = some ⟨x, true⟩ ∧ rest = x.tail) := by
  rcases tn : u.tx with _ | ⟨rest, f⟩
  · have key : ∀ t : State, (t.tx = none ∨ ∃ body f, t.tx = some ⟨messageOctets body, f⟩) → (t = chooseMessage u) →
        ((sendOctet u).2.lines = t.lines ∧ (sendOctet u).2.lossHold = t.lossHold ∧ (sendOctet u).2.slot = t.slot) ∧
        (∀ rest, (sendOctet u).2.tx = some ⟨rest, true⟩ → 1 < rest.length) := by
      intro t ht e
      have hs : sendOctet u = match t.tx with
          | none => (0x00, t)
          | some ⟨[], _⟩ => (0x00, { t with tx := none })
          | some ⟨[b], softReset⟩ => (b, endMessage softReset t)
          | some ⟨b :: c :: rest, softReset⟩ => (b, { t with tx := some ⟨c :: rest, softReset⟩ }) := by
        unfold sendOctet; rw [tn, e]; rfl
      rcases ht with ht | ⟨body, f, ht⟩
      · rw [hs, ht]; exact ⟨⟨rfl, rfl, rfl⟩, fun rest x => by
          have x' : t.tx = some ⟨rest, true⟩ := x
          rw [ht] at x'; cases x'⟩
      · obtain ⟨c, d, r, m⟩ := messageOctets_cons body
        rw [hs, ht, m]
        exact ⟨⟨rfl, rfl, rfl⟩, fun rest x => by
          have x' : some (Transmission.mk (c :: d :: r) f) = some ⟨rest, true⟩ := x
          cases x'; simp⟩
    obtain ⟨k1, s1, t1⟩ := chooseNotice_effect u
    by_cases q : (chooseNotice u).tx = none
    · have e : chooseMessage u = startReply (chooseNotice u) := by simp [chooseMessage, q]
      obtain ⟨a, b⟩ := startReply_effect (chooseNotice u) q
      obtain ⟨⟨kl, kh, ks⟩, kt⟩ := key _ b e.symm
      refine ⟨?_, fun rest x => .inl (kt rest x)⟩
      by_cases z : u.slot = none
      · obtain ⟨k, w⟩ := startReply_idleSlot (chooseNotice u) (s1.trans z)
        exact .inr ⟨⟨by rw [kl, k.lines, k1.lines], by rw [kh, k.hold, k1.hold]⟩, by rw [ks, w, z]⟩
      · rcases a with a | ⟨k, w⟩
        · exact .inl ⟨by rw [ks, a], z⟩
        · exact .inr ⟨⟨by rw [kl, k.lines, k1.lines], by rw [kh, k.hold, k1.hold]⟩, by rw [ks, w, s1]⟩
    · have e : chooseMessage u = chooseNotice u := by simp [chooseMessage, q]
      have t2 : ∃ body f, (chooseNotice u).tx = some ⟨messageOctets body, f⟩ := by
        rcases t1 with t1 | ⟨b, t1⟩
        · exact absurd (t1.trans tn) q
        · exact ⟨b, _, t1⟩
      obtain ⟨⟨kl, kh, ks⟩, kt⟩ := key _ (.inr t2) e.symm
      exact ⟨.inr ⟨⟨by rw [kl, k1.lines], by rw [kh, k1.hold]⟩, by rw [ks, s1]⟩, fun rest x => .inl (kt rest x)⟩
  · have hs : sendOctet u = match (⟨rest, f⟩ : Transmission) with
        | ⟨[], _⟩ => (0x00, { u with tx := none })
        | ⟨[b], softReset⟩ => (b, endMessage softReset u)
        | ⟨b :: c :: rest, softReset⟩ => (b, { u with tx := some ⟨c :: rest, softReset⟩ }) := by
      unfold sendOctet
      rw [if_neg (by simp [tn])]
      dsimp only
      rw [tn]
      rcases rest with _ | ⟨b, _ | ⟨c, rest⟩⟩ <;> rfl
    rw [hs]
    rcases rest with _ | ⟨b, _ | ⟨c, rest⟩⟩
    · exact ⟨.inr ⟨⟨rfl, rfl⟩, rfl⟩, fun r x => by cases x⟩
    · cases f with
      | false => exact ⟨.inr ⟨⟨rfl, rfl⟩, rfl⟩, fun r x => by cases x⟩
      | true => exact absurd (h [b] tn) (by simp)
    · refine ⟨.inr ⟨⟨rfl, rfl⟩, rfl⟩, fun r x => ?_⟩
      cases x
      exact .inr ⟨_, rfl, rfl⟩

/-- Two octet positions that execute no request and end no SOFT-RESET reply touch no line. -/
theorem sendOctet_twice (v : State) (h : ∀ rest, v.tx = some ⟨rest, true⟩ → 2 < rest.length)
    (k : (sendOctet (sendOctet v).2).2.slot = v.slot) : SameLines v (sendOctet (sendOctet v).2).2 := by
  obtain ⟨a, b⟩ := sendOctet_effect v (fun r x => Nat.lt_of_succ_lt (h r x))
  have h2 : ∀ rest, (sendOctet v).2.tx = some ⟨rest, true⟩ → 1 < rest.length := by
    intro rest x
    rcases b rest x with y | ⟨y, z, w⟩
    · exact y
    · have := h _ z
      rw [w, List.length_tail]; omega
  obtain ⟨c, _⟩ := sendOctet_effect (sendOctet v).2 h2
  rcases a with ⟨a, z⟩ | ⟨a, a'⟩
  · rcases c with ⟨_, z'⟩ | ⟨_, c'⟩
    · exact absurd a z'
    · rw [c', a] at k; exact absurd k.symm z
  · rcases c with ⟨c, z'⟩ | ⟨c, c'⟩
    · rw [c] at k; rw [a'] at z'; exact absurd k.symm z'
    · exact ⟨c.lines.trans a.lines, c.hold.trans a.hold⟩

/-! ## The lines' part of the frame -/

/-- Only the emission and the Voice Selector of the line differ, an idle emission stays idle, and no event flag is lost. -/
structure LineKeeps (l0 l : Line) : Prop where
  filter : l.filter = l0.filter
  decoder : l.decoder = l0.decoder
  config : l.config = l0.config
  quality : l.quality = l0.quality
  capture : l.capture = l0.capture
  events : l0.events &&& l.events = l0.events
  idle : l0.emission = Emission.idle → l.emission = Emission.idle

theorem LineKeeps.refl (l) : LineKeeps l l := ⟨rfl, rfl, rfl, rfl, rfl, by simp, id⟩

theorem LineKeeps.trans {a b c} (h : LineKeeps a b) (k : LineKeeps b c) : LineKeeps a c :=
  ⟨k.1.trans h.1, k.2.trans h.2, k.3.trans h.3, k.4.trans h.4, k.5.trans h.5, by
    have := h.6; have w := k.6
    rw [← this, BitVec.and_assoc, w], fun x => k.7 (h.7 x)⟩
/-- Every line keeps what `LineKeeps` says, and the request slot, the message being sent and the loss hold are the same. -/
structure FrameKeeps (s t : State) : Prop where
  line : ∀ m, LineKeeps (s.line m) (t.line m)
  slot : t.slot = s.slot
  tx : t.tx = s.tx
  hold : t.lossHold = s.lossHold

theorem FrameKeeps.refl (s) : FrameKeeps s s := ⟨fun _ => LineKeeps.refl _, rfl, rfl, rfl⟩

theorem FrameKeeps.trans {a b c} (h : FrameKeeps a b) (k : FrameKeeps b c) : FrameKeeps a c :=
  ⟨fun m => (h.1 m).trans (k.1 m), k.2.trans h.2, k.3.trans h.3, k.4.trans h.4⟩

theorem FrameKeeps.modLine {n} {f : Line → Line} (s : State) (h : LineKeeps (s.line n) (f (s.line n))) : FrameKeeps s (s.modLine n f) :=
  ⟨fun m => by rw [line_modLine]; split <;> [(rename_i e; rw [e]; exact h); exact LineKeeps.refl _], rfl, rfl, rfl⟩

theorem FrameKeeps.modEmission {n} {f : Emission → Emission} (s : State)
    (h : (s.line n).emission = Emission.idle → f (s.line n).emission = Emission.idle) : FrameKeeps s (s.modEmission n f) :=
  FrameKeeps.modLine s ⟨rfl, rfl, rfl, rfl, rfl, by simp, h⟩

theorem FrameKeeps.latch {n e} (s : State) : FrameKeeps s (latch n e s) := by
  have : FrameKeeps s (s.modLine n fun l => { l with events := l.events ||| e.bit }) := FrameKeeps.modLine s ⟨rfl, rfl, rfl, rfl, rfl, by
    show (s.line n).events &&& ((s.line n).events ||| e.bit) = _
    ext i hi; simp; tauto, id⟩
  exact ⟨this.1, rfl, rfl, rfl⟩

theorem FrameKeeps.takeIfFree (n) (s : State) : FrameKeeps s (takeIfFree n s) := by
  unfold Machine.takeIfFree
  split
  · rename_i c
    have ni : (s.line n).emission ≠ Emission.idle := by
      intro e; rw [e] at c; simp [Emission.canTake, Emission.idle, Emission.slotWaiting] at c
    unfold Machine.takeItem
    split
    · exact FrameKeeps.modEmission s fun x => absurd x ni
    · unfold takeFromQueue
      split
      · exact FrameKeeps.refl s
      · exact FrameKeeps.modEmission s fun x => absurd x ni
      · exact FrameKeeps.modEmission s fun x => absurd x ni
  · exact FrameKeeps.refl s

theorem FrameKeeps.endGap (n) (s : State) (ni : (s.line n).emission ≠ Emission.idle) : FrameKeeps s (endGap n s) := by
  unfold Machine.endGap
  dsimp only
  have a : FrameKeeps s (s.setEmitter n .quiet) := FrameKeeps.modEmission s fun x => absurd x ni
  split
  · have b : FrameKeeps s ((s.setEmitter n .quiet).modEmission n fun e => { e with slot := none }) := by
      have : (s.setEmitter n .quiet).modEmission n (fun e => { e with slot := none }) =
          s.modEmission n fun e => { e with state := .quiet, slot := none } := by
        simp only [State.setEmitter, State.modEmission]
        rw [modLine_modLine]
      rw [this]
      exact FrameKeeps.modEmission s fun x => absurd x ni
    split
    · exact b.trans (FrameKeeps.latch _)
    · exact b
  · exact a

theorem FrameKeeps.emitterFrame (n) (s : State) : FrameKeeps s (emitterFrame n s) := by
  have ni : (s.line n).emission.state ≠ .quiet → (s.line n).emission ≠ Emission.idle := fun h x => h (by rw [x]; rfl)
  unfold Machine.emitterFrame
  split
  · exact FrameKeeps.takeIfFree n s
  all_goals
    rename_i e
    have i := ni (by rw [e]; simp)
    split
  · exact FrameKeeps.modEmission (f := fun e => { e with state := _ }) s fun x => absurd x i
  · exact FrameKeeps.modEmission s fun x => absurd x i
  · exact (FrameKeeps.endGap n s i).trans (FrameKeeps.takeIfFree _ _)
  · exact FrameKeeps.modEmission s fun x => absurd x i
  · exact FrameKeeps.modEmission (f := fun e => { e with state := _ }) s fun x => absurd x i
  · exact FrameKeeps.modEmission s fun x => absurd x i
  · exact (FrameKeeps.modEmission (n := n) s fun x => absurd x i).trans (FrameKeeps.takeIfFree _ _)
  · exact FrameKeeps.modEmission s fun x => absurd x i

theorem FrameKeeps.settleRace (b n) (s : State) : FrameKeeps s (settleRace b n s) := by
  unfold Machine.settleRace
  have q : FrameKeeps s { s with raceCount := s.raceCount + 1 } := ⟨fun _ => LineKeeps.refl _, rfl, rfl, rfl⟩
  split
  · dsimp only
    split
    · exact q.trans (FrameKeeps.latch _)
    · exact q
  · exact FrameKeeps.refl s

theorem FrameKeeps.voiceFrame (n) (s : State) : FrameKeeps s (voiceFrame n s) :=
  FrameKeeps.modLine s ⟨rfl, rfl, rfl, rfl, rfl, by simp, id⟩

theorem FrameKeeps.countFirstWait (n) (s : State) : FrameKeeps s (countFirstWait n s) := FrameKeeps.modEmission s fun x => by rw [x]; rfl

theorem FrameKeeps.all {f : LineId → State → State} (k : ∀ n s, FrameKeeps s (f n s)) (s : State) : FrameKeeps s (forLines f s) :=
  forLines_keeps (P := FrameKeeps s) (fun n t p => p.trans (k n t)) (FrameKeeps.refl s)

/-- The lines at the end of an output frame that carries no LU frame, executes no request and ends no SOFT-RESET reply: those that the loss
hold's count leaves, with what the emitters and the Voice Selectors do to them (R13, R123, R139, R168). -/
theorem outputFrame_lines (s t u : State) (tk : s.clock = .freeRunning ∨ s.paced ≠ [])
    (sx : ∀ rest, s.tx = some ⟨rest, true⟩ → 2 < rest.length) (e : exec .outputFrame s = .next t) (k : t.slot = s.slot)
    (hu : u = forLines countFirstWait (formLD s))
    (hk : (countLossHold u).slot = u.slot ∧ (countLossHold u).tx = u.tx ∧ (countLossHold u).waiting = none) :
    FrameKeeps s u ∧ (∀ m, LineKeeps ((countLossHold u).line m) (t.line m)) ∧ t.lossHold = (countLossHold u).lossHold := by
  have tk' : s.ticks = true := by rcases tk with h | h <;> simp [State.ticks, h]
  have et : t = outputFrame s := by
    simp [exec, execOutputFrame, tk'] at e; exact e.symm
  have r0 : FrameKeeps s u := by
    subst hu
    exact FrameKeeps.trans (b := formLD s) ⟨fun _ => LineKeeps.refl _, rfl, rfl, rfl⟩ (FrameKeeps.all FrameKeeps.countFirstWait _)
  refine ⟨r0, ?_⟩
  have hw : lineFrames (formLD s) = forLines emitterFrame (forLines (settleRace (formLD s)) (countLossHold u)) := by
    unfold lineFrames
    dsimp only
    rw [← hu]
    have : carry (countLossHold u) = countLossHold u := by simp [carry, hk.2.2]
    rw [this]
  have r1 : FrameKeeps (countLossHold u) (forLines voiceFrame (lineFrames (formLD s))) := by
    rw [hw]
    exact (FrameKeeps.all (FrameKeeps.settleRace _) _).trans
      ((FrameKeeps.all FrameKeeps.emitterFrame _).trans (FrameKeeps.all FrameKeeps.voiceFrame _))
  generalize hv : forLines voiceFrame (lineFrames (formLD s)) = v at r1
  have fs : outputFrame s = _ := formSU_eq (lineFrames (formLD s)) v hv.symm
  have tl : t.lines = (sendOctet (sendOctet v).2).2.lines ∧ t.slot = (sendOctet (sendOctet v).2).2.slot ∧
      t.lossHold = (sendOctet (sendOctet v).2).2.lossHold := by
    rw [et, fs]; exact ⟨rfl, rfl, rfl⟩
  have kept := sendOctet_twice v (by rw [r1.tx, hk.2.1, r0.tx]; exact sx) (by rw [← tl.2.1, k, r1.slot, hk.1, r0.slot])
  have ll : ∀ m, t.line m = v.line m := fun m => by unfold State.line; rw [tl.1, kept.lines]
  exact ⟨fun m => by rw [ll]; exact r1.line m, by rw [tl.2.2, kept.hold, r1.hold]⟩

end Sys2Proof.Machine
end

