-- ==== Sys2Proof/Laws/OneArrival.lean ====
section
/-! SUPPORT. A sample arrival of a line depends on that line, the profiles, the part configuration and the tables alone, and changes
nothing that the arrival of another line depends on. -/

namespace Sys2Proof.Machine

/-- The two states agree in everything that an arrival of line `n` depends on. -/
structure SameFor (n : LineId) (s t : State) : Prop where
  line : t.line n = s.line n
  profiles : t.profiles = s.profiles
  part : t.part = s.part
  xlat : ∀ k, (s.xlat.get k).sameButBound (t.xlat.get k)
  code : ∀ k, (s.code.get k).sameButBound (t.code.get k)

theorem sameButBound_refl {α : Type} {size : Nat} (p : PagedSet α size) : p.sameButBound p := ⟨rfl, rfl, rfl, rfl⟩

theorem sameButBound_entries {α : Type} {size : Nat} {p q : PagedSet α size} (h : p.sameButBound q) (g : Page) :
    q.entries g = p.entries g := by
  cases g
  · exact h.1
  · exact h.2.1

theorem sameButBound_vmod {α : Type} {size m : Nat} {v : Vector (PagedSet α size) m} {p : PagedSet α size} {i k : Fin m}
    {f : PagedSet α size → PagedSet α size} (keeps : ∀ q : PagedSet α size, q.sameButBound (f q)) (h : p.sameButBound (v.get k)) :
    p.sameButBound ((vmod v i f).get k) := by
  rw [vget_vmod]
  split
  · rename_i e
    subst e
    obtain ⟨a, b, c, d⟩ := h
    obtain ⟨a', b', c', d'⟩ := keeps (v.get _)
    exact ⟨a'.trans a, b'.trans b, c'.trans c, d'.trans d⟩
  · exact h

theorem sameButBound_bind {α : Type} {size : Nat} (g : Page) (p : PagedSet α size) : p.sameButBound (p.bind g) := by
  cases g <;> exact ⟨rfl, rfl, rfl, rfl⟩

theorem sameButBound_unbind {α : Type} {size : Nat} (g : Page) (p : PagedSet α size) : p.sameButBound (p.unbind g) := by
  cases g <;> exact ⟨rfl, rfl, rfl, rfl⟩

namespace SameFor

theorem refl (n : LineId) (s : State) : SameFor n s s := ⟨rfl, rfl, rfl, fun _ => sameButBound_refl _, fun _ => sameButBound_refl _⟩

theorem modLine {n : LineId} {s t : State} (h : SameFor n s t) {f g : Line → Line} (e : g (s.line n) = f (s.line n)) :
    SameFor n (s.modLine n f) (t.modLine n g) :=
  ⟨by rw [line_modLine_self, line_modLine_self, h.line, e], h.profiles, h.part, h.xlat, h.code⟩

theorem attention {n : LineId} {s t : State} (h : SameFor n s t) (a b : Bool) :
    SameFor n { s with attention := a } { t with attention := b } := ⟨h.line, h.profiles, h.part, h.xlat, h.code⟩

theorem profileOf {n : LineId} {s t : State} (h : SameFor n s t) : t.profileOf n = s.profileOf n := by
  simp only [State.profileOf, h.line, h.profiles]

theorem callOf {n : LineId} {s t : State} (h : SameFor n s t) : t.callOf n = s.callOf n := by
  simp only [State.callOf, h.line]

theorem liveOf {n : LineId} {s t : State} (h : SameFor n s t) (c : Call) : t.liveOf c = s.liveOf c := by
  unfold State.liveOf
  cases c.codePage with
  | none => rfl
  | some k => simp only [sameButBound_entries (h.code k.set)]

theorem translate {n : LineId} {s t : State} (h : SameFor n s t) (c : Call) : t.translate c = s.translate c := by
  simp only [State.translate, sameButBound_entries (h.xlat c.transPage.set)]

variable {n : LineId} {s t : State}

/-! ## Flags and quality -/

theorem latch (h : SameFor n s t) (e : LineEvent) : SameFor n (latch n e s) (latch n e t) := (h.modLine rfl).attention _ _

theorem latchReject (h : SameFor n s t) (r : RejectReason) : SameFor n (latchReject n r s) (latchReject n r t) :=
  (h.modLine rfl).latch _

theorem modQuality (h : SameFor n s t) (f : Quality → Quality) : SameFor n (s.modQuality n f) (t.modQuality n f) := h.modLine rfl

theorem endWindow (h : SameFor n s t) : SameFor n (endWindow n s) (endWindow n t) := by
  simp only [Machine.endWindow, h.line, h.part]
  split
  · exact (h.modQuality _).latch _
  · exact h.modQuality _

theorem reportDigit (h : SameFor n s t) (r : DigitReport) : SameFor n (reportDigit n r s) (reportDigit n r t) := by
  have q : SameFor n (applyReport n r s) (applyReport n r t) := h.modQuality _
  have w : windowDone n (applyReport n r t) = windowDone n (applyReport n r s) := by simp only [windowDone, q.line, q.part]
  simp only [Machine.reportDigit, w]
  split
  · exact q.endWindow
  · exact q

theorem reportGlitch (h : SameFor n s t) : SameFor n (reportGlitch n s) (reportGlitch n t) := h.modQuality _

theorem reportAborted (h : SameFor n s t) : SameFor n (reportAborted n s) (reportAborted n t) := h.modQuality _

/-! ## The Code Matcher -/

theorem bring (h : SameFor n s t) (items : List Item) : SameFor n (bring n items s) (bring n items t) := by
  simp only [Machine.bring, h.line]
  split
  · exact (h.modLine rfl).latch _
  · exact h.modLine rfl

theorem modCall (h : SameFor n s t) (f : Call → Call) : SameFor n (s.modCall n f) (t.modCall n f) := h.modLine rfl

theorem setDecoder (h : SameFor n s t) (d : Decoder) : SameFor n (s.setDecoder n d) (t.setDecoder n d) := h.modLine rfl

theorem setFilter (h : SameFor n s t) (f : Filter) : SameFor n (s.setFilter n f) (t.setFilter n f) := h.modLine rfl

theorem matchEffects (h : SameFor n s t) (offset : Nat) (e : CodeEntry) :
    SameFor n (matchEffects n offset e s) (matchEffects n offset e t) := by
  have q : SameFor n (s.modLine n fun l => { l with capture := some (writeCapture l.capture offset e.code) })
      (t.modLine n fun l => { l with capture := some (writeCapture l.capture offset e.code) }) := h.modLine rfl
  simp only [Machine.matchEffects]
  split <;> split
  · exact (q.latch _).latch _
  · exact h.latch _
  · exact q.latch _
  · exact h

theorem resolve (h : SameFor n s t) (c : Call) (f : Option Nat) (extra : List Item) :
    SameFor n (resolve n c f extra s) (resolve n c f extra t) := by
  simp only [Machine.resolve, h.liveOf]
  refine SameFor.bring (SameFor.modCall ?_ _) _
  split
  · exact h.matchEffects _ _
  · exact h

theorem screenSymbol (h : SameFor n s t) (sym : Symbol) (c : Call) :
    SameFor n (screenSymbol n sym c s) (screenSymbol n sym c t) := by
  simp only [Machine.screenSymbol, h.liveOf]
  split
  · exact h.modCall _
  · exact (h.modCall _).resolve _ _ _
  · exact (h.modCall _).resolve _ _ _

theorem handSymbol (h : SameFor n s t) (sym : Symbol) : SameFor n (handSymbol n sym s) (handSymbol n sym t) := by
  simp only [Machine.handSymbol, h.callOf]
  split
  · exact h
  · split
    · exact h.screenSymbol _ _
    · exact h.bring _

theorem handFlash (h : SameFor n s t) : SameFor n (handFlash n s) (handFlash n t) := by
  simp only [Machine.handFlash, h.callOf]
  split
  · exact h
  · split
    · exact h.resolve _ _ _
    · exact h.bring _

theorem handDialIdle (h : SameFor n s t) : SameFor n (handDialIdle n s) (handDialIdle n t) := by
  simp only [Machine.handDialIdle, h.callOf]
  split
  · exact h
  · exact h.resolve _ _ _

/-! ## The Dial Decoder -/

theorem becomeIdle (h : SameFor n s t) : SameFor n (becomeIdle n s) (becomeIdle n t) := by
  simp only [Machine.becomeIdle, h.line]
  split
  · exact h
  · exact h.modLine rfl

theorem bindPages (h : SameFor n s t) (p : TransPage) (k : Option CodePage) : SameFor n (s.bindPages p k) (t.bindPages p k) where
  line := h.line
  profiles := h.profiles
  part := h.part
  xlat j := by
    obtain ⟨a, b, c, d⟩ := sameButBound_vmod (i := p.set) (sameButBound_bind p.page) (h.xlat j)
    obtain ⟨a', b', c', d'⟩ := sameButBound_vmod (i := p.set) (sameButBound_bind p.page) (sameButBound_refl (s.xlat.get j))
    exact ⟨a.trans a'.symm, b.trans b'.symm, c.trans c'.symm, d.trans d'.symm⟩
  code j := by
    cases k with
    | none => exact h.code j
    | some k =>
      obtain ⟨a, b, c, d⟩ := sameButBound_vmod (i := k.set) (sameButBound_bind k.page) (h.code j)
      obtain ⟨a', b', c', d'⟩ := sameButBound_vmod (i := k.set) (sameButBound_bind k.page) (sameButBound_refl (s.code.get j))
      exact ⟨a.trans a'.symm, b.trans b'.symm, c.trans c'.symm, d.trans d'.symm⟩

theorem unbindPages (h : SameFor n s t) (p : TransPage) (k : Option CodePage) :
    SameFor n (s.unbindPages p k) (t.unbindPages p k) where
  line := h.line
  profiles := h.profiles
  part := h.part
  xlat j := by
    obtain ⟨a, b, c, d⟩ := sameButBound_vmod (i := p.set) (sameButBound_unbind p.page) (h.xlat j)
    obtain ⟨a', b', c', d'⟩ := sameButBound_vmod (i := p.set) (sameButBound_unbind p.page) (sameButBound_refl (s.xlat.get j))
    exact ⟨a.trans a'.symm, b.trans b'.symm, c.trans c'.symm, d.trans d'.symm⟩
  code j := by
    cases k with
    | none => exact h.code j
    | some k =>
      obtain ⟨a, b, c, d⟩ := sameButBound_vmod (i := k.set) (sameButBound_unbind k.page) (h.code j)
      obtain ⟨a', b', c', d'⟩ := sameButBound_vmod (i := k.set) (sameButBound_unbind k.page) (sameButBound_refl (s.code.get j))
      exact ⟨a.trans a'.symm, b.trans b'.symm, c.trans c'.symm, d.trans d'.symm⟩

theorem openCall (h : SameFor n s t) : SameFor n (openCall n s) (openCall n t) := by
  have a : t.openTransPage n = s.openTransPage n := by simp only [State.openTransPage, h.profileOf, (h.xlat _).2.2.1]
  have b : t.openCodePage n = s.openCodePage n := by
    unfold State.openCodePage
    rw [h.profileOf]
    cases (s.profileOf n).codeSet with
    | none => rfl
    | some k => simp only [Option.map_some, (h.code k).2.2.1]
  have c : openPhase t (s.openCodePage n) = openPhase s (s.openCodePage n) := by
    unfold openPhase
    cases s.openCodePage n with
    | none => rfl
    | some k => simp only [sameButBound_entries (h.code k.set)]
  simp only [Machine.openCall, a, b, c, h.profileOf]
  exact (h.bindPages _ _).modLine rfl

theorem clearCall (h : SameFor n s t) (d : Decoder) : SameFor n (clearCall n d s) (clearCall n d t) := by
  simp only [Machine.clearCall, h.line]
  split
  · exact (h.unbindPages _ _).modLine rfl
  all_goals exact h.setDecoder _

theorem hangUp (h : SameFor n s t) : SameFor n (hangUp n s) (hangUp n t) := (h.clearCall _).becomeIdle

theorem handTranslation (h : SameFor n s t) (v : TransValue) : SameFor n (handTranslation n v s) (handTranslation n v t) := by
  cases v with
  | symbol sym => exact h.handSymbol sym
  | ignore => exact h
  | flash => exact h.handFlash
  | reject => exact h.latchReject _

theorem completeDigit (h : SameFor n s t) (c : Call) : SameFor n (completeDigit n c s) (completeDigit n c t) := by
  simp only [Machine.completeDigit, h.translate, h.profileOf]
  exact ((h.setDecoder _).handTranslation _).reportDigit _

theorem pulseBreak (h : SameFor n s t) (p : DigitPhase) (c : Call) (d : Nat) :
    SameFor n (pulseBreak n p c d s) (pulseBreak n p c d t) := by
  simp only [Machine.pulseBreak, h.line, h.profileOf]
  split
  · exact h.setDecoder _
  · split
    · exact h.setDecoder _
    · exact ((h.setDecoder _).latchReject _).reportDigit _
  · exact h.setDecoder _

theorem indeterminateBreak (h : SameFor n s t) (p : DigitPhase) (c : Call) :
    SameFor n (indeterminateBreak n p c s) (indeterminateBreak n p c t) := by
  cases p with
  | indigit => exact ((h.setDecoder _).latchReject _).reportDigit _
  | offhook => exact (h.setDecoder _).reportGlitch
  | discard => exact h.setDecoder _

/-- The two results agree in what the line depends on and in whether the dial-idle count stands at a fresh 0. -/
def Both (n : LineId) (a b : Taken) : Prop := SameFor n a.state b.state ∧ b.restarted = a.restarted

theorem flashBreak (h : SameFor n s t) (p : DigitPhase) (c : Call) : Both n (flashBreak n p c s) (flashBreak n p c t) := by
  cases p with
  | indigit => exact ⟨(h.completeDigit c).handFlash, rfl⟩
  | offhook => exact ⟨(h.setDecoder _).handFlash, rfl⟩
  | discard => exact ⟨(h.setDecoder _).handFlash, rfl⟩

theorem closeBreak (h : SameFor n s t) (p : DigitPhase) (c : Call) (d : Nat) :
    Both n (closeBreak n p c d s) (closeBreak n p c d t) := by
  simp only [Machine.closeBreak, h.profileOf]
  split
  · exact ⟨h.reportGlitch.setDecoder _, rfl⟩
  · exact ⟨h.pulseBreak _ _ _, rfl⟩
  · exact ⟨h.indeterminateBreak _ _, rfl⟩
  · exact h.flashBreak _ _
  · exact ⟨h.hangUp, rfl⟩

theorem startBreak (h : SameFor n s t) (p : DigitPhase) (c : Call) (d : Nat) :
    SameFor n (startBreak n p c d s) (startBreak n p c d t) := by cases p <;> exact h.setDecoder _

theorem takeTransition (h : SameFor n s t) (now : LoopState) (d : Nat) :
    Both n (takeTransition n now d s) (takeTransition n now d t) := by
  simp only [Machine.takeTransition, h.line]
  split
  · exact ⟨h.setDecoder _, rfl⟩
  · exact ⟨h, rfl⟩
  · exact ⟨((h.setDecoder _).modQuality _).becomeIdle, rfl⟩
  · exact ⟨h, rfl⟩
  · exact ⟨h, rfl⟩
  · exact ⟨h.startBreak _ _ _, rfl⟩
  · exact ⟨h, rfl⟩
  · exact h.closeBreak _ _ _
  · exact ⟨h, rfl⟩

theorem digitEnd (h : SameFor n s t) : Both n (digitEnd n s) (digitEnd n t) := by
  simp only [Machine.digitEnd, h.line]
  split
  · exact ⟨h.completeDigit _, rfl⟩
  · exact ⟨h.setDecoder _, rfl⟩
  · exact ⟨h, rfl⟩

theorem takeTimers (h : SameFor n s t) : Both n (takeTimers n s) (takeTimers n t) := by
  have a : seizeDue n t = seizeDue n s := by simp only [seizeDue, h.line, h.profileOf]
  have b : clearDue n t = clearDue n s := by simp only [clearDue, h.line, h.profileOf]
  have c : digitEndDue n t = digitEndDue n s := by simp only [digitEndDue, h.line]
  simp only [Machine.takeTimers, a, b, c]
  split
  · exact ⟨h.openCall, rfl⟩
  · split
    · exact ⟨h.hangUp, rfl⟩
    · split
      · exact h.digitEnd
      · exact ⟨h, rfl⟩

theorem takeDialIdle (h : SameFor n s t) : SameFor n (takeDialIdle n s) (takeDialIdle n t) := by
  have a : dialIdleDue n t = dialIdleDue n s := by simp only [dialIdleDue, h.callOf, h.profileOf]
  simp only [Machine.takeDialIdle, a]
  split
  · exact (h.modCall _).handDialIdle
  · exact h.modCall _

theorem laterSteps {a b : Taken} (h : Both n a b) : SameFor n (laterSteps n a) (laterSteps n b) := by
  have q := h.1.takeTimers
  simp only [Machine.laterSteps, h.2, q.2]
  split
  · exact q.1
  · exact q.1.takeDialIdle

theorem decodeArrival (h : SameFor n s t) (r : LoopResult) : SameFor n (decodeArrival n r s) (decodeArrival n r t) := by
  refine laterSteps ?_
  cases r with
  | nothing => exact ⟨h, rfl⟩
  | aborted => exact ⟨h.reportAborted, rfl⟩
  | confirmed now d => exact h.takeTransition now d

/-! ## One sample arrival -/

theorem loopSample (h : SameFor n s t) (l : Bool) : SameFor n (loopSample n l s) (loopSample n l t) := by
  have q := h.setFilter ((s.line n).filter.takeLoop (s.profileOf n) l).1
  simp only [Machine.loopSample, consumeLoop, h.line, h.profileOf, q.line]
  split
  · exact q.decodeArrival _
  · split
    · exact q.becomeIdle
    · exact q
  · exact q

theorem exitFault (h : SameFor n s t) : SameFor n (exitFault n s) (exitFault n t) := by
  simp only [Machine.exitFault, h.line]
  split
  · exact (h.setDecoder _).becomeIdle
  · exact h

theorem faultChanged (h : SameFor n s t) (f : Bool) : SameFor n (faultChanged n f s) (faultChanged n f t) := by
  have q := h.latch .faultOn
  cases f with
  | false => exact h.latch _
  | true =>
    simp only [Machine.faultChanged, if_true, enterFault, q.line]
    split
    · exact q.clearCall _
    · exact q

theorem faultSample (h : SameFor n s t) (g : Bool) : SameFor n (faultSample n g s) (faultSample n g t) := by
  simp only [Machine.faultSample, h.line]
  refine SameFor.exitFault ?_
  split
  · exact (h.setFilter _).faultChanged _
  · exact h.setFilter _

/-- An arrival of a line does the same to the line in all states that agree in what it depends on (R21, R41, R47). -/
theorem arrival (h : SameFor n s t) (l g : Bool) : SameFor n (arrival n l g s) (arrival n l g t) := (h.loopSample l).faultSample g

/-! ## The arrivals of the other lines -/

/-- What an arrival of line `n` depends on is kept by every update of another line. -/
theorem lineClosed {n m : LineId} (other : n ≠ m) (s : State) : LineClosed m (SameFor n s) where
  attention _ p := ⟨p.line, p.profiles, p.part, p.xlat, p.code⟩
  line _ p _ := ⟨(line_modLine_other _ _ other).trans p.line, p.profiles, p.part, p.xlat, p.code⟩
  filter _ p _ := ⟨(line_modLine_other _ _ other).trans p.line, p.profiles, p.part, p.xlat, p.code⟩
  opening {t} p _ := by
    refine ⟨(line_modLine_other (t.bindPages _ _) _ other).trans p.line, p.profiles, p.part,
      fun k => sameButBound_vmod (sameButBound_bind _) (p.xlat k), fun k => ?_⟩
    show (s.code.get k).sameButBound ((t.bindPages (t.openTransPage m) (t.openCodePage m)).code.get k)
    unfold State.bindPages
    cases t.openCodePage m with
    | none => exact p.code k
    | some j => exact sameButBound_vmod (sameButBound_bind _) (p.code k)
  clear {t} d p _ _ := by
    unfold Machine.clearCall
    split
    · rename_i c _
      refine ⟨(line_modLine_other (t.unbindPages _ _) _ other).trans p.line, p.profiles, p.part,
        fun k => sameButBound_vmod (sameButBound_unbind _) (p.xlat k), fun k => ?_⟩
      show (s.code.get k).sameButBound ((t.unbindPages c.transPage c.codePage).code.get k)
      unfold State.unbindPages
      cases c.codePage with
      | none => exact p.code k
      | some j => exact sameButBound_vmod (sameButBound_unbind _) (p.code k)
    all_goals exact ⟨(line_modLine_other _ _ other).trans p.line, p.profiles, p.part, p.xlat, p.code⟩

/-- The arrival of another line changes nothing that an arrival of line `n` depends on. -/
theorem otherArrival {n m : LineId} {s t : State} (h : SameFor n s t) (other : n ≠ m) (l g : Bool) :
    SameFor n s (Machine.arrival m l g t) := (lineClosed other s).arrival l g h

end SameFor

end Sys2Proof.Machine
end

