-- ==== Sys2Proof/Laws/PerInstr.lean ====
section
/-! SUPPORT. Statements made for every command as syntax: the body of a well-formed request command is one that a message can carry
(R161), and its KIND is the code of its row (chapter 12.2). -/

namespace Sys2Proof.Laws.RequestBodiesFit

/-- The KIND and the parameter octets of a request command's message. -/
def request : Instr → Option (Byte × List Byte)
  | .identify _ ps => some (0x01, ps)
  | .partStatus _ ps => some (0x02, ps)
  | .partConfigRead _ => some (0x03, [])
  | .partConfigWrite _ ps => some (0x03, ps)
  | .lineStatus _ ps => some (0x04, ps)
  | .lineConfig _ ps => some (0x05, ps)
  | .lineReset _ ps => some (0x06, ps)
  | .profileWrite _ ps => some (0x07, ps)
  | .profileRead _ ps => some (0x08, ps)
  | .cursorSet _ ps => some (0x09, ps)
  | .tableWrite _ ps => some (0x0A, ps)
  | .tableRead _ ps => some (0x0B, ps)
  | .tableCompare _ ps => some (0x0C, ps)
  | .tableClear _ ps => some (0x0D, ps)
  | .tableClearcheck _ ps => some (0x0E, ps)
  | .setSwap _ ps => some (0x0F, ps)
  | .setLock _ ps => some (0x10, ps)
  | .setErase _ ps => some (0x11, ps)
  | .toneInsert _ ps => some (0x12, ps)
  | .emitHold _ ps => some (0x13, ps)
  | .emitResume _ ps => some (0x14, ps)
  | .captureRead _ ps => some (0x15, ps)
  | .qualityRead _ ps => some (0x16, ps)
  | .softReset _ ps => some (0x17, ps)
  | .unknownRequest k _ ps => some (k, ps)
  | _ => none

/-- A well-formed request command has at most 62 parameter octets, and its KIND names a request unless its row is the one for
unknown kinds. -/
def Statement (i : Instr) : Prop :=
  i.wf = true → ∀ k ps, request i = some (k, ps) →
    ps.length ≤ 62 ∧ (kindNamed k = true ∨ ∃ tag, i = .unknownRequest k tag ps)

theorem powerOnReset : Statement .powerOnReset := by
  intro _ k ps e
  cases e

theorem huntMarkerFound (d : Direction) (bits : List Bool) : Statement (.huntMarkerFound d bits) := by
  intro _ k ps e
  cases e

theorem markerCheck (d : Direction) (slots : Slots) : Statement (.markerCheck d slots) := by
  intro _ k ps e
  cases e

theorem alignmentLock (d : Direction) (slots : Slots) : Statement (.alignmentLock d slots) := by
  intro _ k ps e
  cases e

theorem alignmentLoss (d : Direction) : Statement (.alignmentLoss d) := by
  intro _ k ps e
  cases e

theorem outputFrame : Statement .outputFrame := by
  intro _ k ps e
  cases e

theorem loopTransition (n : LineId) : Statement (.loopTransition n) := by
  intro _ k ps e
  cases e

theorem faultStateChange (n : LineId) : Statement (.faultStateChange n) := by
  intro _ k ps e
  cases e

theorem seizeExpiry (n : LineId) : Statement (.seizeExpiry n) := by
  intro _ k ps e
  cases e

theorem digitEndExpiry (n : LineId) : Statement (.digitEndExpiry n) := by
  intro _ k ps e
  cases e

theorem qualityWindowEnd (n : LineId) (r : DigitReport) : Statement (.qualityWindowEnd n r) := by
  intro _ k ps e
  cases e

theorem dialIdleExpiry (n : LineId) : Statement (.dialIdleExpiry n) := by
  intro _ k ps e
  cases e

theorem clearExpiry (n : LineId) : Statement (.clearExpiry n) := by
  intro _ k ps e
  cases e

theorem lossHoldExpiry : Statement .lossHoldExpiry := by
  intro _ k ps e
  cases e

theorem firstWaitEnd (n : LineId) : Statement (.firstWaitEnd n) := by
  intro _ k ps e
  cases e

theorem emitterTakeItem (n : LineId) : Statement (.emitterTakeItem n) := by
  intro _ k ps e
  cases e

theorem burstEnd (n : LineId) : Statement (.burstEnd n) := by
  intro _ k ps e
  cases e

theorem gapEnd (n : LineId) : Statement (.gapEnd n) := by
  intro _ k ps e
  cases e

theorem flashOpenEnd (n : LineId) : Statement (.flashOpenEnd n) := by
  intro _ k ps e
  cases e

theorem guardEnd (n : LineId) : Statement (.guardEnd n) := by
  intro _ k ps e
  cases e

theorem muteWaitLimit (n : LineId) : Statement (.muteWaitLimit n) := by
  intro _ k ps e
  cases e

theorem replyStart : Statement .replyStart := by
  intro _ k ps e
  cases e

theorem attention : Statement .attention := by
  intro _ k ps e
  cases e

theorem softResetAction : Statement .softResetAction := by
  intro _ k ps e
  cases e

theorem identify (tag : Byte) (params : List Byte) : Statement (.identify tag params) := by
  intro h k ps e
  cases e
  exact ⟨of_decide_eq_true h, .inl rfl⟩

theorem partStatus (tag : Byte) (params : List Byte) : Statement (.partStatus tag params) := by
  intro h k ps e
  cases e
  exact ⟨of_decide_eq_true h, .inl rfl⟩

theorem partConfigRead (tag : Byte) : Statement (.partConfigRead tag) := by
  intro _ k ps e
  cases e
  exact ⟨Nat.zero_le _, .inl rfl⟩

theorem partConfigWrite (tag : Byte) (params : List Byte) : Statement (.partConfigWrite tag params) := by
  intro h k ps e
  cases e
  simp only [Instr.wf, paramsFit, Bool.and_eq_true, decide_eq_true_eq] at h
  exact ⟨h.2, .inl rfl⟩

theorem lineStatus (tag : Byte) (params : List Byte) : Statement (.lineStatus tag params) := by
  intro h k ps e
  cases e
  exact ⟨of_decide_eq_true h, .inl rfl⟩

theorem lineConfig (tag : Byte) (params : List Byte) : Statement (.lineConfig tag params) := by
  intro h k ps e
  cases e
  exact ⟨of_decide_eq_true h, .inl rfl⟩

theorem lineReset (tag : Byte) (params : List Byte) : Statement (.lineReset tag params) := by
  intro h k ps e
  cases e
  exact ⟨of_decide_eq_true h, .inl rfl⟩

theorem profileWrite (tag : Byte) (params : List Byte) : Statement (.profileWrite tag params) := by
  intro h k ps e
  cases e
  exact ⟨of_decide_eq_true h, .inl rfl⟩

theorem profileRead (tag : Byte) (params : List Byte) : Statement (.profileRead tag params) := by
  intro h k ps e
  cases e
  exact ⟨of_decide_eq_true h, .inl rfl⟩

theorem cursorSet (tag : Byte) (params : List Byte) : Statement (.cursorSet tag params) := by
  intro h k ps e
  cases e
  exact ⟨of_decide_eq_true h, .inl rfl⟩

theorem tableWrite (tag : Byte) (params : List Byte) : Statement (.tableWrite tag params) := by
  intro h k ps e
  cases e
  exact ⟨of_decide_eq_true h, .inl rfl⟩

theorem tableRead (tag : Byte) (params : List Byte) : Statement (.tableRead tag params) := by
  intro h k ps e
  cases e
  exact ⟨of_decide_eq_true h, .inl rfl⟩

theorem tableCompare (tag : Byte) (params : List Byte) : Statement (.tableCompare tag params) := by
  intro h k ps e
  cases e
  exact ⟨of_decide_eq_true h, .inl rfl⟩

theorem tableClear (tag : Byte) (params : List Byte) : Statement (.tableClear tag params) := by
  intro h k ps e
  cases e
  exact ⟨of_decide_eq_true h, .inl rfl⟩

theorem tableClearcheck (tag : Byte) (params : List Byte) : Statement (.tableClearcheck tag params) := by
  intro h k ps e
  cases e
  exact ⟨of_decide_eq_true h, .inl rfl⟩

theorem setSwap (tag : Byte) (params : List Byte) : Statement (.setSwap tag params) := by
  intro h k ps e
  cases e
  exact ⟨of_decide_eq_true h, .inl rfl⟩

theorem setLock (tag : Byte) (params : List Byte) : Statement (.setLock tag params) := by
  intro h k ps e
  cases e
  exact ⟨of_decide_eq_true h, .inl rfl⟩

theorem setErase (tag : Byte) (params : List Byte) : Statement (.setErase tag params) := by
  intro h k ps e
  cases e
  exact ⟨of_decide_eq_true h, .inl rfl⟩

theorem toneInsert (tag : Byte) (params : List Byte) : Statement (.toneInsert tag params) := by
  intro h k ps e
  cases e
  exact ⟨of_decide_eq_true h, .inl rfl⟩

theorem emitHold (tag : Byte) (params : List Byte) : Statement (.emitHold tag params) := by
  intro h k ps e
  cases e
  exact ⟨of_decide_eq_true h, .inl rfl⟩

theorem emitResume (tag : Byte) (params : List Byte) : Statement (.emitResume tag params) := by
  intro h k ps e
  cases e
  exact ⟨of_decide_eq_true h, .inl rfl⟩

theorem captureRead (tag : Byte) (params : List Byte) : Statement (.captureRead tag params) := by
  intro h k ps e
  cases e
  exact ⟨of_decide_eq_true h, .inl rfl⟩

theorem qualityRead (tag : Byte) (params : List Byte) : Statement (.qualityRead tag params) := by
  intro h k ps e
  cases e
  exact ⟨of_decide_eq_true h, .inl rfl⟩

theorem softReset (tag : Byte) (params : List Byte) : Statement (.softReset tag params) := by
  intro h k ps e
  cases e
  exact ⟨of_decide_eq_true h, .inl rfl⟩

theorem unknownRequest (kind tag : Byte) (params : List Byte) : Statement (.unknownRequest kind tag params) := by
  intro h k ps e
  cases e
  simp only [Instr.wf, paramsFit, Bool.and_eq_true, decide_eq_true_eq] at h
  exact ⟨h.2, .inr ⟨tag, rfl⟩⟩

end Sys2Proof.Laws.RequestBodiesFit
end

