-- ==== Sys2Proof/Laws/Requests.lean ====
section
/-! SUPPORT. What a request command does at a ready management channel: it is executed at once, and its one reply joins the reply
queue (R165). One lemma per command. -/

namespace Sys2Proof.Machine

/-- The state after an execution, with its reply at the tail of the reply queue. -/
def Executed.replied (e : Executed) (s : State) (tag kind : Byte) : State :=
  { e.state with replies := s.replies ++ [⟨tag, kind, e.answer, e.softReset⟩] }

theorem replied_ackWith {t s : State} (r : Result) (tag kind : Byte) (same : t.replies = s.replies) :
    (ackWith t r).replied s tag kind = t.acked tag kind r := by
  simp [Executed.replied, ackWith, State.acked, State.replied, same]

theorem replied_ackClamped {t s : State} (b : Bool) (r : Result) (tag kind : Byte) (same : t.replies = s.replies) :
    (ackClamped t b r).replied s tag kind = t.replied tag kind (.ack b false r) := by
  simp [Executed.replied, ackClamped, State.replied, same]

theorem replied_refuseWith (s : State) (c : RefusalCode) (tag kind : Byte) :
    (refuseWith s c).replied s tag kind = s.refusedBy tag kind c := rfl

theorem requestKindOf_code (k : RequestKind) : requestKindOf k.code = some k := by cases k <;> decide

/-- A request of a named kind, offered at a ready channel. -/
theorem offer_named (k : RequestKind) (tag : Byte) (params : List Byte) {s : State} (ready : s.ready) :
    offer ⟨k.code, tag, params⟩ s = (runRequest k params s).replied s tag k.code := by
  rw [offer_ready _ ready.1 ready.2]
  simp [answerRequest, requestKindOf_code, Executed.replied]

theorem lineOf_octet (n : LineId) : lineOf (octet n.val) = some n := by revert n; decide

theorem lineOf_none {b : Byte} (h : 48 ≤ b.toNat) : lineOf b = none := by simp [lineOf, Nat.not_lt.mpr h]

theorem exec_identify_ready {s : State} (ready : s.ready) (tag : Byte) {params : List Byte} (fit : params.length ≤ 62) :
    exec (.identify tag params) s = .next ((reqIdentify params s).replied s tag 0x1) :=
  (offerCommand_wf (c := .identify tag params) _ s (by simp [Instr.wf, paramsFit, fit])).trans
    (congrArg _ (offer_named .identify tag params ready))

theorem exec_partStatus_ready {s : State} (ready : s.ready) (tag : Byte) {params : List Byte} (fit : params.length ≤ 62) :
    exec (.partStatus tag params) s = .next ((reqPartStatus params s).replied s tag 0x2) :=
  (offerCommand_wf (c := .partStatus tag params) _ s (by simp [Instr.wf, paramsFit, fit])).trans
    (congrArg _ (offer_named .partStatus tag params ready))

theorem exec_partConfigWrite_ready {s : State} (ready : s.ready) (tag : Byte) {params : List Byte} (some : params ≠ []) (fit : params.length ≤ 62) :
    exec (.partConfigWrite tag params) s = .next ((reqPartConfig params s).replied s tag 0x3) :=
  (offerCommand_wf (c := .partConfigWrite tag params) _ s (by simp [Instr.wf, paramsFit, fit, some])).trans
    (congrArg _ (offer_named .partConfig tag params ready))

theorem exec_lineStatus_ready {s : State} (ready : s.ready) (tag : Byte) {params : List Byte} (fit : params.length ≤ 62) :
    exec (.lineStatus tag params) s = .next ((reqLineStatus params s).replied s tag 0x4) :=
  (offerCommand_wf (c := .lineStatus tag params) _ s (by simp [Instr.wf, paramsFit, fit])).trans
    (congrArg _ (offer_named .lineStatus tag params ready))

theorem exec_lineConfig_ready {s : State} (ready : s.ready) (tag : Byte) {params : List Byte} (fit : params.length ≤ 62) :
    exec (.lineConfig tag params) s = .next ((reqLineConfig params s).replied s tag 0x5) :=
  (offerCommand_wf (c := .lineConfig tag params) _ s (by simp [Instr.wf, paramsFit, fit])).trans
    (congrArg _ (offer_named .lineConfig tag params ready))

theorem exec_lineReset_ready {s : State} (ready : s.ready) (tag : Byte) {params : List Byte} (fit : params.length ≤ 62) :
    exec (.lineReset tag params) s = .next ((reqLineReset params s).replied s tag 0x6) :=
  (offerCommand_wf (c := .lineReset tag params) _ s (by simp [Instr.wf, paramsFit, fit])).trans
    (congrArg _ (offer_named .lineReset tag params ready))

theorem exec_profileWrite_ready {s : State} (ready : s.ready) (tag : Byte) {params : List Byte} (fit : params.length ≤ 62) :
    exec (.profileWrite tag params) s = .next ((reqProfileWrite params s).replied s tag 0x7) :=
  (offerCommand_wf (c := .profileWrite tag params) _ s (by simp [Instr.wf, paramsFit, fit])).trans
    (congrArg _ (offer_named .profileWrite tag params ready))

theorem exec_profileRead_ready {s : State} (ready : s.ready) (tag : Byte) {params : List Byte} (fit : params.length ≤ 62) :
    exec (.profileRead tag params) s = .next ((reqProfileRead params s).replied s tag 0x8) :=
  (offerCommand_wf (c := .profileRead tag params) _ s (by simp [Instr.wf, paramsFit, fit])).trans
    (congrArg _ (offer_named .profileRead tag params ready))

theorem exec_cursorSet_ready {s : State} (ready : s.ready) (tag : Byte) {params : List Byte} (fit : params.length ≤ 62) :
    exec (.cursorSet tag params) s = .next ((reqCursorSet params s).replied s tag 0x9) :=
  (offerCommand_wf (c := .cursorSet tag params) _ s (by simp [Instr.wf, paramsFit, fit])).trans
    (congrArg _ (offer_named .cursorSet tag params ready))

theorem exec_tableWrite_ready {s : State} (ready : s.ready) (tag : Byte) {params : List Byte} (fit : params.length ≤ 62) :
    exec (.tableWrite tag params) s = .next ((reqTableWrite params s).replied s tag 0xa) :=
  (offerCommand_wf (c := .tableWrite tag params) _ s (by simp [Instr.wf, paramsFit, fit])).trans
    (congrArg _ (offer_named .tableWrite tag params ready))

theorem exec_tableRead_ready {s : State} (ready : s.ready) (tag : Byte) {params : List Byte} (fit : params.length ≤ 62) :
    exec (.tableRead tag params) s = .next ((reqTableRead params s).replied s tag 0xb) :=
  (offerCommand_wf (c := .tableRead tag params) _ s (by simp [Instr.wf, paramsFit, fit])).trans
    (congrArg _ (offer_named .tableRead tag params ready))

theorem exec_tableCompare_ready {s : State} (ready : s.ready) (tag : Byte) {params : List Byte} (fit : params.length ≤ 62) :
    exec (.tableCompare tag params) s = .next ((reqTableCompare params s).replied s tag 0xc) :=
  (offerCommand_wf (c := .tableCompare tag params) _ s (by simp [Instr.wf, paramsFit, fit])).trans
    (congrArg _ (offer_named .tableCompare tag params ready))

theorem exec_tableClear_ready {s : State} (ready : s.ready) (tag : Byte) {params : List Byte} (fit : params.length ≤ 62) :
    exec (.tableClear tag params) s = .next ((reqTableClear params s).replied s tag 0xd) :=
  (offerCommand_wf (c := .tableClear tag params) _ s (by simp [Instr.wf, paramsFit, fit])).trans
    (congrArg _ (offer_named .tableClear tag params ready))

theorem exec_tableClearcheck_ready {s : State} (ready : s.ready) (tag : Byte) {params : List Byte} (fit : params.length ≤ 62) :
    exec (.tableClearcheck tag params) s = .next ((reqTableClearcheck params s).replied s tag 0xe) :=
  (offerCommand_wf (c := .tableClearcheck tag params) _ s (by simp [Instr.wf, paramsFit, fit])).trans
    (congrArg _ (offer_named .tableClearcheck tag params ready))

theorem exec_setSwap_ready {s : State} (ready : s.ready) (tag : Byte) {params : List Byte} (fit : params.length ≤ 62) :
    exec (.setSwap tag params) s = .next ((reqSetSwap params s).replied s tag 0xf) :=
  (offerCommand_wf (c := .setSwap tag params) _ s (by simp [Instr.wf, paramsFit, fit])).trans
    (congrArg _ (offer_named .setSwap tag params ready))

theorem exec_setLock_ready {s : State} (ready : s.ready) (tag : Byte) {params : List Byte} (fit : params.length ≤ 62) :
    exec (.setLock tag params) s = .next ((reqSetLock params s).replied s tag 0x10) :=
  (offerCommand_wf (c := .setLock tag params) _ s (by simp [Instr.wf, paramsFit, fit])).trans
    (congrArg _ (offer_named .setLock tag params ready))

theorem exec_setErase_ready {s : State} (ready : s.ready) (tag : Byte) {params : List Byte} (fit : params.length ≤ 62) :
    exec (.setErase tag params) s = .next ((reqSetErase params s).replied s tag 0x11) :=
  (offerCommand_wf (c := .setErase tag params) _ s (by simp [Instr.wf, paramsFit, fit])).trans
    (congrArg _ (offer_named .setErase tag params ready))

theorem exec_toneInsert_ready {s : State} (ready : s.ready) (tag : Byte) {params : List Byte} (fit : params.length ≤ 62) :
    exec (.toneInsert tag params) s = .next ((reqToneInsert params s).replied s tag 0x12) :=
  (offerCommand_wf (c := .toneInsert tag params) _ s (by simp [Instr.wf, paramsFit, fit])).trans
    (congrArg _ (offer_named .toneInsert tag params ready))

theorem exec_emitHold_ready {s : State} (ready : s.ready) (tag : Byte) {params : List Byte} (fit : params.length ≤ 62) :
    exec (.emitHold tag params) s = .next ((reqEmitHold params s).replied s tag 0x13) :=
  (offerCommand_wf (c := .emitHold tag params) _ s (by simp [Instr.wf, paramsFit, fit])).trans
    (congrArg _ (offer_named .emitHold tag params ready))

theorem exec_emitResume_ready {s : State} (ready : s.ready) (tag : Byte) {params : List Byte} (fit : params.length ≤ 62) :
    exec (.emitResume tag params) s = .next ((reqEmitResume params s).replied s tag 0x14) :=
  (offerCommand_wf (c := .emitResume tag params) _ s (by simp [Instr.wf, paramsFit, fit])).trans
    (congrArg _ (offer_named .emitResume tag params ready))

theorem exec_captureRead_ready {s : State} (ready : s.ready) (tag : Byte) {params : List Byte} (fit : params.length ≤ 62) :
    exec (.captureRead tag params) s = .next ((reqCaptureRead params s).replied s tag 0x15) :=
  (offerCommand_wf (c := .captureRead tag params) _ s (by simp [Instr.wf, paramsFit, fit])).trans
    (congrArg _ (offer_named .captureRead tag params ready))

theorem exec_qualityRead_ready {s : State} (ready : s.ready) (tag : Byte) {params : List Byte} (fit : params.length ≤ 62) :
    exec (.qualityRead tag params) s = .next ((reqQualityRead params s).replied s tag 0x16) :=
  (offerCommand_wf (c := .qualityRead tag params) _ s (by simp [Instr.wf, paramsFit, fit])).trans
    (congrArg _ (offer_named .qualityRead tag params ready))

theorem exec_softReset_ready {s : State} (ready : s.ready) (tag : Byte) {params : List Byte} (fit : params.length ≤ 62) :
    exec (.softReset tag params) s = .next ((reqSoftReset params s).replied s tag 0x17) :=
  (offerCommand_wf (c := .softReset tag params) _ s (by simp [Instr.wf, paramsFit, fit])).trans
    (congrArg _ (offer_named .softReset tag params ready))

theorem exec_partConfigRead_ready {s : State} (ready : s.ready) (tag : Byte) :
    exec (.partConfigRead tag) s = .next ((reqPartConfig [] s).replied s tag 0x3) :=
  (offerCommand_wf (c := .partConfigRead tag) _ s rfl).trans (congrArg _ (offer_named .partConfig tag [] ready))

theorem exec_unknownRequest_ready {s : State} (ready : s.ready) (kind tag : Byte) {params : List Byte}
    (unnamed : kindNamed kind = false) (fit : params.length ≤ 62) :
    exec (.unknownRequest kind tag params) s = .next (s.refusedBy tag kind .unknown) := by
  refine (offerCommand_wf (c := .unknownRequest kind tag params) _ s (by simp [Instr.wf, paramsFit, fit, unnamed])).trans
    (congrArg _ ?_)
  have none_ : requestKindOf kind = none := by revert unnamed; revert kind; decide
  rw [offer_ready _ ready.1 ready.2]
  simp [answerRequest, none_, refuseWith, State.refusedBy, State.replied]

end Sys2Proof.Machine
end

