-- ==== Sys2Proof/Laws/TableEntries.lean ====
section
/-! SUPPORT. The entries that a table request carries: how a parameter list is cut into them, and when each is a value. -/

namespace Sys2Proof.Machine

/-- A list made of pieces of one size is cut into them again. -/
theorem pieces_flatten {size : Nat} {bss : List (List Byte)} (each : ∀ bs ∈ bss, bs.length = size) :
    pieces size bss.length bss.flatten = bss := by
  induction bss with
  | nil => rfl
  | cons b bss ih =>
    have e := each b List.mem_cons_self
    simp only [List.length_cons, List.flatten_cons, pieces]
    rw [List.take_left' e, List.drop_left' e, ih fun bs m => each bs (List.mem_cons_of_mem _ m)]

theorem length_flatten_pieces {size : Nat} {bss : List (List Byte)} (each : ∀ bs ∈ bss, bs.length = size) :
    bss.flatten.length = size * bss.length := by
  induction bss with
  | nil => rfl
  | cons b bss ih =>
    rw [List.flatten_cons, List.length_append, each b List.mem_cons_self, ih fun bs m => each bs (List.mem_cons_of_mem _ m),
      List.length_cons, Nat.mul_succ, Nat.add_comm]

/-- A fitting number of entries is carried (R165 check 2, R174). -/
theorem carriedEntries_flatten {size most : Nat} {bss : List (List Byte)} (pos : 0 < size) (each : ∀ bs ∈ bss, bs.length = size)
    (some_ : 1 ≤ bss.length) (few : bss.length ≤ most) : carriedEntries size most bss.flatten = some bss := by
  have count : bss.flatten.length / size = bss.length := by
    rw [length_flatten_pieces each, Nat.mul_div_cancel_left _ pos]
  have whole : bss.flatten.length % size = 0 := by rw [length_flatten_pieces each, Nat.mul_mod_right]
  simp only [carriedEntries, count, whole]
  rw [if_pos ⟨trivial, some_, few⟩, pieces_flatten each]

/-- A parameter list of fitting length carries entries, whatever they hold. -/
theorem carriedEntries_fits {size most : Nat} {ps : List Byte} (whole : ps.length % size = 0) (some_ : 1 ≤ ps.length / size)
    (few : ps.length / size ≤ most) : carriedEntries size most ps = some (pieces size (ps.length / size) ps) := by
  simp only [carriedEntries]
  rw [if_pos ⟨whole, some_, few⟩]

theorem flatten_map_singleton (ps : List Byte) : (ps.map fun b => [b]).flatten = ps := by
  induction ps with
  | nil => rfl
  | cons b ps ih => rw [List.map_cons, List.flatten_cons, ih]; rfl

/-- Entries of one octet each. -/
theorem carriedEntries_octets {most : Nat} {ps : List Byte} (some_ : 1 ≤ ps.length) (few : ps.length ≤ most) :
    carriedEntries 1 most ps = some (ps.map fun b => [b]) := by
  have h := carriedEntries_flatten (size := 1) (most := most) (bss := ps.map fun b => [b]) Nat.one_pos (by simp) (by simpa) (by simpa)
  rwa [flatten_map_singleton] at h

@[simp] theorem allSome_map_some {α : Type} (xs : List α) : allSome (xs.map some) = some xs := by
  induction xs with
  | nil => rfl
  | cons x xs ih => simp [allSome, ih]

/-- One that is no value refuses them all, wherever it stands (R90). -/
theorem allSome_eq_none {α : Type} {xs : List (Option α)} (m : none ∈ xs) : allSome xs = none := by
  induction xs with
  | nil => cases m
  | cons x xs ih =>
    cases x with
    | none => rfl
    | some x =>
      rcases List.mem_cons.1 m with e | m
      · cases e
      · simp [allSome, ih m]

/-- An octet above 0x12 is no translation value (R174). -/
theorem transOfCode_none {b : Byte} (h : 0x12 < b.toNat) : transOfCode b = none := by
  revert b
  decide +kernel

theorem transOfCode_code (v : TransValue) : transOfCode v.code = some v := by
  revert v
  rintro (y | _ | _ | _)
  · revert y; decide +kernel
  all_goals rfl

end Sys2Proof.Machine
end

