-- ==== Sys2Proof/Tests/Slice0.lean ====
section
/-! SUPPORT. The model's own tests: what the well-formedness check refuses, single effects worked out by the spec, and for every statement
a state and operands that meet its hypotheses. -/

namespace Sys2Proof.Tests

open Sys2Proof Sys2Proof.Machine

set_option maxRecDepth 100000
set_option Elab.async false

/-! ## Well-formedness: an ill-formed term for each check -/

theorem test_wf_refuses_empty_record : (Instr.partConfigWrite 0 []).wf = false := by decide
theorem test_wf_refuses_long_body : (Instr.identify 0 (List.replicate 63 0)).wf = false := by decide
theorem test_wf_refuses_long_record : (Instr.partConfigWrite 0 (List.replicate 63 0)).wf = false := by decide
theorem test_wf_refuses_named_kind : (Instr.unknownRequest 0x17 0 []).wf = false := by decide
theorem test_wf_refuses_long_unknown : (Instr.unknownRequest 0x18 0 (List.replicate 63 0)).wf = false := by decide
theorem test_wf_refuses_no_pulses : (Instr.qualityWindowEnd 0 ⟨0, 0, false, false, none⟩).wf = false := by decide
theorem test_wf_refuses_many_pulses : (Instr.qualityWindowEnd 0 ⟨21, 0, false, false, none⟩).wf = false := by decide
theorem test_wf_refuses_many_distorted : (Instr.qualityWindowEnd 0 ⟨3, 4, false, false, none⟩).wf = false := by decide
theorem test_wf_refuses_high_speed : (Instr.qualityWindowEnd 0 ⟨3, 3, false, false, some 1000⟩).wf = false := by decide
theorem test_wf_takes_longest_body : (Instr.tableWrite 0 (List.replicate 62 0)).wf = true := by decide
theorem test_wf_takes_unknown_kinds : (Instr.unknownRequest 0 0 []).wf = true ∧ (Instr.unknownRequest 0xA2 0 []).wf = true := by decide

/-! ## Small states -/

/-- The part after reset, with LU locked. -/
def linkUp : State := { State.reset with lu := ⟨.locked, 0, 0, 0, 0⟩ }

/-- Line 0 of that part, changed. -/
def onLine (f : Line → Line) : State := linkUp.modLine 0 f

/-- A call on the power-on pages, with a digit of three pulses in progress. -/
def someCall : Call := ⟨⟨0, .a⟩, none, .free, [], none, 3, 100, 600, 2, 1400, 400, 0, none, some 1200, 0⟩

/-- A call that screens against page A of code set 0. -/
def screening : Call := { someCall with codePage := some ⟨0, .a⟩, phase := .matching, held := [1], dialIdle := 70000 }

/-- A live entry: code 1 0, SUBSTITUTE with 5. -/
def someEntry : CodeEntry := ⟨false, [1, 0], some .substitute, true, [5]⟩

/-- Line 0 in a call, its filter as given. -/
def inCall (st : CallState) (c : Call) (f : Filter) : State := onLine fun l => { l with decoder := .inCall st c, filter := f }

/-- A closed loop of 300 ms, one sample short of a confirmed opening. -/
def closedLoop : Filter := ⟨.closed, 2400, 15, false, 0⟩

/-- An open loop of d frames, one sample short of a confirmed close. -/
def openLoop (d : Nat) : Filter := ⟨.opened, d + 23, 23, false, 0⟩

/-- The 50 slots of an idle frame. -/
def idleSlots : Slots := Frame.idle.toSlots

/-- Slots whose marker is wrong. -/
def noMarker : Slots := Vector.replicate 50 0

/-- Code set 0 with one live entry on its ACTIVE page. -/
def withEntry (s : State) : State :=
  { s with code := vmod s.code 0 fun p => { p with pageA := p.pageA.set 0 someEntry } }

/-! ## Single effects -/

theorem test_marker_bits : slotBits 0x6B2D =
    [false, true, true, false, true, false, true, true, false, false, true, false, true, true, false, true] := by decide
theorem test_hunt_locks_after_three :
    exec (.huntMarkerFound .lu (true :: slotBits 0x6B2D)) State.reset = .next { State.reset with lu := ⟨.confirm, 1, 0, 0, 0⟩ } :=
  congrArg Host.Outcome.next (a₁ := huntBits .lu (true :: slotBits 0x6B2D) State.reset) (by decide +kernel)
theorem test_sine_values : sine 5710 = 4263 ∧ sine 0 = 0 ∧ sine 16384 = 8191 ∧ sine 49152 = -8191 := by decide +kernel
theorem test_increments_of_symbol_1 : phaseIncrement 697 = 5710 ∧ phaseIncrement 1209 = 9904 := by decide
theorem test_tone_samples_of_symbol_1 :
    (State.reset.burstOf 0 1).toneSample = 0 ∧ { State.reset.burstOf 0 1 with sample := 1 }.toneSample = 3089 ∧
      { State.reset.burstOf 0 1 with sample := 2 }.toneSample = 4162 := by decide +kernel
theorem test_mix_truncates_toward_zero : mixTones 1 0 (-4097) 0 = -1 ∧ mixTones 1 0 (-4095) 0 = 0 ∧ mixTones 4095 4095 8191 8191 = 8191 := by
  decide
theorem test_first_seizure_sample :
    exec (.loopTransition 0) (onLine fun l => { l with filter := openLoop 800 }) =
      .next (onLine fun l => { l with filter := ⟨.closed, 24, 0, false, 0⟩, decoder := .seizing }) := by
  simp only [exec, execLoopTransition]
  exact congrArg Host.Outcome.next (by decide +kernel)
/-- A due seizure waits while LU is not up, and opens the call when it is up. -/
theorem test_seizureWaitsForTheLink : ∃ s : State, s.lu.up = false ∧ seizeDue 0 (agreeingSample 0 s) = true ∧
    exec (.seizeExpiry 0) s = .next s ∧
    ∃ t : State, exec (.seizeExpiry 0) { s with lu := linkUp.lu } = .next t ∧ (t.callOf 0).isSome = true :=
  ⟨State.reset.modLine 0 fun l => { l with filter := ⟨.closed, 479, 0, false, 0⟩, decoder := .seizing }, by decide +kernel, by decide +kernel,
    congrArg Host.Outcome.next (by decide +kernel), _, rfl, by decide +kernel⟩
/-- A glitch that fills the threshold ends its digit, or its discard, in the LOOP_TRANSITION that closes it (R54, R76). -/
theorem test_glitchEndsTheDigit :
    (∃ t, exec (.loopTransition 0) (inCall (.opened .indigit) { someCall with makeAcc := 1000 } (openLoop 200)) = .next t ∧
      (t.line 0).quality.current.digitsEnded = 1 ∧ (t.line 0).quality.current.glitches = 1 ∧
      (t.callOf 0).map (fun c => (c.makeAcc, c.dialIdle)) = some (1200, 0)) ∧
    ∃ t, exec (.loopTransition 0) (inCall (.opened .discard) { someCall with makeAcc := 1000 } (openLoop 200)) = .next t ∧
      (t.line 0).decoder = .inCall (.closed .offhook) { someCall with makeAcc := 1200, dialIdle := 1 } :=
  ⟨⟨_, rfl, by decide +kernel⟩, _, rfl, by decide +kernel⟩
theorem test_request_layouts : requestOf [0x07, 0x2A, 3] = some ⟨0x07, 0x2A, [3]⟩ ∧ requestOf [0x07] = none := by decide
theorem test_check_pair : messageOctets [0x01, 0x28] = [0xC3, 0x02, 0x01, 0x28, 0x2B, 0x2B] := by decide
theorem test_message_reaches_the_slot :
    (messageOctets [0x01, 0x28]).foldl (fun t b => receiveOctet b t) State.reset = State.reset.acked 0x28 0x01 .identity := by
  decide +kernel
theorem test_profile_record : Profile.default.octets = [16, 24, 0, 60, 0, 30, 0, 120, 0, 180, 2, 88, 0, 150, 0, 60, 1, 144, 24, 0, 50, 75,
    70, 140, 31, 64, 0, 255, 0, 70, 0, 70, 0, 250, 1, 44, 1, 44] := by decide
theorem test_code_entry_octets : someEntry.octets = [0x43, 0x21, 0x10, 0, 0, 0x50, 0, 0, 0] ∧ CodeEntry.cleared.octets = [0x80, 0, 0, 0, 0, 0, 0, 0, 0] := by
  decide
theorem test_notice_body : noticeBody [0, 9, 47] true = [0xA2, 0, 1, 2, 0, 0, 0, 0x80, 1] := by decide
theorem test_reply_layouts :
    Reply.body ⟨5, 0x12, .refuse .nocall, false⟩ = [0xA1, 5, 0x12, 0x0A] ∧
      Reply.body ⟨5, 0x05, .ack true true .nothing, false⟩ = [0xA0, 5, 0x05, 3] := by decide
theorem test_status_octets : (State.reset.lineReport 3).octets = [3, 0, 0, 0, 0, 0xFF, 0, 0, 0, 0, 0, 0, 0, 0, 8, 0x10] := by decide +kernel
theorem test_classes_of_a_short_list :
    classify [1] someEntry = .pending ∧ classify [1, 0] someEntry = .complete ∧ classify [1, 0, 0] someEntry = .dead := by decide
theorem test_order_refused :
    (reqProfileWrite (0 :: ({ Profile.default with flashMin := 90 } : Profile).octets) State.reset).answer = .refuse .order := by
  decide +kernel
theorem test_clamped_write : (reqProfileWrite (3 :: ({ Profile.default with pulseMin := 5 } : Profile).octets) State.reset).answer =
    .ack true false (.profile 3 { Profile.default with pulseMin := 10 }) := by decide +kernel

/-! ## Hypotheses that are met: steps and laws -/

theorem witness_StepTakesTheFrontCommand : State.reset.pending = [] := rfl
theorem witness_WellFormedCommandsComplete : Instr.outputFrame.wf = true ∧ (Instr.partConfigWrite 0 []).wf = false ∧
    ∃ t, exec .powerOnReset State.reset = .next t := ⟨rfl, rfl, _, rfl⟩
theorem witness_PowerOnTables : (1 : Fin 8) ≠ 0 := by decide

/-- A part whose lines are all in CONVERT with no pending mode is lawful in its modes. -/
theorem modesLawful_of_convert {s : State} (h : ∀ n, (s.line n).config.mode = .convert ∧ (s.line n).config.pendingMode = none) :
    s.modesLawful := fun n => ⟨fun x => absurd (h n).1 x, fun m x => by rw [(h n).2] at x; simp at x⟩

theorem seizing_modes : (onLine fun l => { l with decoder := .seizing }).modesLawful := modesLawful_of_convert (by decide +kernel)

theorem witness_ModesStayLawful : ∃ s t, s.modesLawful ∧ (s.line 0).decoder = .seizing ∧ step s = .next t :=
  ⟨{ onLine (fun l => { l with decoder := .seizing }) with pending := [.powerOnReset] }, _, seizing_modes, by decide +kernel, rfl⟩
theorem witness_EmissionsStayLawful : ∃ s t, s.modesLawful ∧ s.emissionsLawful ∧ step s = .next t := by
  refine ⟨{ onLine (fun l => { l with decoder := .seizing }) with pending := [.powerOnReset] }, _, seizing_modes, ?_, rfl⟩
  unfold State.emissionsLawful
  decide +kernel
theorem witness_BoundCountsStayExact : ∃ s t, s.modesLawful ∧ s.bindingsLawful ∧ step s = .next t := by
  refine ⟨{ onLine (fun l => { l with decoder := .seizing }) with pending := [.powerOnReset] }, _, seizing_modes, ?_, rfl⟩
  unfold State.bindingsLawful
  refine ⟨fun k g => ?_, fun k g => ?_⟩ <;> cases g <;> revert k <;> decide +kernel
theorem witness_RegistersStayInRange : ∃ s t, s.configurationLawful ∧ s.clockLawful ∧ s.lineTimeLawful ∧ s.queuesBounded ∧ step s = .next t := by
  refine ⟨{ onLine (fun l => { l with decoder := .seizing }) with pending := [.powerOnReset] }, _, ?_, ?_, ?_, ?_, rfl⟩
  · unfold State.configurationLawful Profile.inRange PartConfig.inRange
    decide +kernel
  · unfold State.clockLawful
    decide +kernel
  · unfold State.lineTimeLawful
    decide +kernel
  · unfold State.queuesBounded
    decide +kernel
theorem witness_LineEventsChangeOneLine : eventLine (.guardEnd 5) = some 5 ∧ ∃ t, exec (.guardEnd 5) State.reset = .next t := ⟨rfl, _, rfl⟩
theorem witness_BoundPagesKeepTheirEntries : ∃ s : State, 0 < (s.xlat.get 0).bound .a ∧ 0 < (s.code.get 3).bound .b :=
  ⟨{ State.reset with xlat := vmod State.reset.xlat 0 (PagedSet.bind .a), code := vmod State.reset.code 3 (PagedSet.bind .b) },
    by decide +kernel, by decide +kernel⟩

/-! ## Hypotheses that are met: alignment and frames -/

theorem witness_HuntFindsTheMarker : (State.reset.aligner .lu).state = .hunt ∧ (State.reset.aligner .lu).seen = 0 ∧
    (({ State.reset with lu := ⟨.locked, 0, 0, 0, 0⟩ } : State).aligner .lu).state ≠ .hunt ∧
    (({ State.reset with sd := ⟨.hunt, 0, 0, 0, 14⟩ } : State).aligner .sd).seen < 15 ∧
    15 ≤ (({ State.reset with sd := ⟨.hunt, 0, 0, 0x3596, 15⟩ } : State).aligner .sd).seen ∧
    ((0x3596 : BitVec 16) <<< 1) ||| 1 = 0x6B2D ∧ slotBits 0x6B2D <:+: [true] ++ slotBits 0x6B2D ++ [false] ∧
    ¬ slotBits 0x6B2D <:+: [] ∧ ∃ t, exec (.huntMarkerFound .lu [true]) State.reset = .next t :=
  ⟨by decide, by decide, by decide, by decide, by decide, by decide, ⟨[true], [false], by decide⟩, by decide, _, rfl⟩
theorem witness_ConfirmationCountsAndLocks : idleSlots.get 0 = 0x6B2D ∧ noMarker.get 0 ≠ 0x6B2D ∧
    (({ State.reset with lu := ⟨.confirm, 1, 0, 0, 0⟩ } : State).aligner .lu).state = .confirm ∧ 1 + 1 < State.reset.part.backProt ∧
    ({ State.reset with lu := ⟨.confirm, 2, 0, 0, 0⟩ } : State).part.backProt ≤ 2 + 1 ∧
    ({ State.reset with sd := ⟨.confirm, 2, 0, 0, 0⟩ } : State).sd.state = .confirm := by decide +kernel
theorem witness_FramesAreDeliveredWhileUp : idleSlots.get 0 = 0x6B2D ∧ noMarker.get 0 ≠ 0x6B2D ∧
    ({ State.reset with lu := ⟨.flywheel, 0, 2, 0, 0⟩ } : State).lu.up = true ∧ 2 + 1 < State.reset.part.fwdProt ∧
    ({ State.reset with sd := ⟨.locked, 0, 0, 0, 0⟩ } : State).sd.up = true := by decide +kernel
theorem witness_LossStartsTheHold : ({ State.reset with lu := ⟨.flywheel, 0, 3, 0, 0⟩ } : State).lu.up = true ∧
    State.reset.part.fwdProt ≤ 3 + 1 ∧ ({ State.reset with sd := ⟨.flywheel, 0, 3, 0, 0⟩ } : State).sd.up = true ∧
    noMarker.get 0 ≠ 0x6B2D := by decide
theorem witness_OutputFrameForms : State.reset.clock = .freeRunning ∧ State.reset.waiting = none ∧
    (∃ s : State, s.clockLawful ∧ s.clock = .sd ∧ s.sd.up = true ∧ s.paced = [Frame.idle.channels] ∧ s.waiting = some Frame.idle.channels) ∧
    State.reset.sd.up = false ∧ ({ State.reset with clock := .sd } : State).paced = [] ∧ (¬ State.reset.gapMeetsClear State.reset 0) ∧
    ∃ s : State, s.gapMeetsClear (carry (countLossHold (forLines countFirstWait (formLD s)))) 0 := by
  refine ⟨by decide +kernel, by decide +kernel,
    ⟨{ State.reset with
      sd := ⟨.locked, 0, 0, 0, 0⟩, clock := .sd, paced := [Frame.idle.channels], waiting := some Frame.idle.channels },
      ⟨⟨fun _ => rfl, fun _ => rfl⟩, fun h => by cases h⟩, rfl, rfl, rfl, rfl⟩,
    by decide +kernel, by decide +kernel, ?_,
    { onLine (fun l => { l with
      decoder := .inCall (.closed .offhook) someCall
      emission := { l.emission with state := .gap 0, slot := some ⟨4, true, .emitting⟩ } }) with lossHold := some ⟨8000, 7999⟩ }, ?_⟩ <;>
  simp only [State.gapMeetsClear] <;> decide +kernel
theorem witness_LineTimeStandsStill : (∃ s t : State, s.waiting = none ∧ s.lossHold = some ⟨8000, 20⟩ ∧ 20 + 1 < 8000 ∧ 8000 ≤ 7999 + 1 ∧
    s.tx = none ∧ s.replies ≠ [] ∧ s.attention = true ∧ s.clock = .freeRunning ∧ exec .outputFrame s = .next t ∧ t.slot = s.slot) ∧
    (State.reset.lu.up = false ∧ DigitReport.wf ⟨3, 1, false, false, none⟩ = true) ∧
    ∃ s t : State, s.tx = some ⟨[1, 2, 3], true⟩ ∧ s.slot = some ⟨1, 1, []⟩ ∧ exec .outputFrame s = .next t ∧ t.slot = s.slot :=
  ⟨⟨{ State.reset with lossHold := some ⟨8000, 20⟩, replies := [⟨7, 2, .refuse .format, false⟩], attention := true }, _, rfl, rfl,
    by decide, by decide, rfl, by decide, rfl, rfl, rfl, by decide +kernel⟩, by decide,
    { State.reset with tx := some ⟨[1, 2, 3], true⟩, slot := some ⟨1, 1, []⟩ }, _, rfl, rfl, rfl, by decide +kernel⟩
/-- An SD frame delivered before an SD loss is gone with it, and the LD channels are idle while SD is not up. -/
theorem test_idleLD_afterLoss : ∃ s : State, s.sd.up = true ∧ s.paced ≠ [] ∧ (loseAlignment .sd s).paced = [] ∧
    (formLD (loseAlignment .sd s)).ld = Frame.idle ∧ (formLD s).ld ≠ Frame.idle :=
  ⟨{ State.reset with sd := ⟨.flywheel, 0, 3, 0, 0⟩, clock := .sd, paced := [vtab fun _ => ⟨5, true, false⟩] }, by decide +kernel⟩
theorem witness_CarriedSamplesReachEveryFilter : State.reset.waiting = none ∧
    ({ State.reset with waiting := some Frame.idle.channels } : State).waiting = some Frame.idle.channels := ⟨rfl, rfl⟩
theorem witness_SuChannelsAreFormed : ∃ s : State, ((s.line 0).emission.state = .tone (s.burstOf 0 1)) ∧
    (s.line 1).voice.mute = .muted ∧ (s.line 1).emission.state = .quiet :=
  ⟨onLine fun l => { l with emission := { l.emission with state := .tone (State.reset.burstOf 0 1) } }, by decide +kernel,
    by decide +kernel, by decide +kernel⟩
theorem witness_MuteStateGoesForward : (∃ s : State, (s.sourcesOf 0).immediate = false ∧ (s.sourcesOf 0).zeroCross = true ∧
    (s.line 0).voice.mute = .pending 7) ∧ State.reset.clock = .freeRunning ∧ (State.reset.sourcesOf 0).e = true ∧
    (⟨false, true, false, false, false⟩ : Sources).d = false :=
  ⟨⟨onLine fun l => { l with config := { l.config with lineMute := true }, voice := { l.voice with mute := .pending 7 } }, by decide +kernel, by decide +kernel, by decide +kernel⟩, rfl, by decide +kernel, rfl⟩
theorem witness_LossHoldExpiryActs : ∃ s t : State, s.lossHold = some ⟨8000, 7999⟩ ∧ s.clock = .freeRunning ∧ s.waiting = none ∧
    s.tx = none ∧ exec .outputFrame s = .next t ∧ t.slot = s.slot ∧ s.modesLawful ∧ (s.callOf 0).isSome = true ∧
    (∃ u : State, u.lossHold = some ⟨8000, 7998⟩ ∧ 7998 + 1 < 8000) ∧ s.emissionsLawful := by
  refine ⟨{ inCall (.closed .offhook) someCall closedLoop with lossHold := some ⟨8000, 7999⟩ }, _, rfl, rfl, rfl, rfl, rfl,
    by decide +kernel, modesLawful_of_convert (by decide +kernel), by decide +kernel,
    ⟨{ State.reset with lossHold := some ⟨8000, 7998⟩ }, rfl, by decide⟩, ?_⟩
  unfold State.emissionsLawful
  decide +kernel

/-! ## Hypotheses that are met: filter and decoder -/

theorem witness_SamplesAreFiltered : LoopState.ofSample true = closedLoop.loop ∧ LoopState.ofSample false ≠ closedLoop.loop ∧
    14 + 1 < Profile.default.openProt ∧ Profile.default.openProt ≤ closedLoop.run + 1 ∧ Profile.default.closeProt ≤ (openLoop 0).run + 1 ∧
    (true ≠ closedLoop.fault ∧ 14 + 1 < 16 ∧ 16 ≤ 15 + 1) := by decide
theorem witness_TransitionsOutsideCalls_modes :
    (onLine fun l => { l with filter := openLoop 50, config := { l.config with mode := .parked } }).modesLawful ∧
    (onLine fun l => { l with filter := closedLoop, config := { l.config with mode := .pass, pendingMode := some .convert } }).modesLawful := by
  have key : ∀ s : State, (∀ n, ((s.line n).config.mode ≠ .convert → (s.line n).decoder = .idle) ∧
      ((s.line n).config.pendingMode = none ∨ (s.line n).config.pendingMode = some .convert ∧ (s.line n).config.mode = .pass)) →
      s.modesLawful := fun s h n => ⟨(h n).1, fun m e => by
    rcases (h n).2 with x | ⟨x, y⟩
    · rw [x] at e; cases e
    · rw [x] at e; cases e; rw [y]; decide⟩
  exact ⟨key _ (by decide +kernel), key _ (by decide +kernel)⟩
theorem witness_TransitionsOutsideCalls : ∃ s u v w x : State,
    (s.lu.up = true ∧ s.confirms 0 ∧ (s.line 0).config.mode = .parked) ∧
    (u.lu.up = true ∧ u.confirms 0 ∧ (u.line 0).config.mode = .pass ∧ (u.line 0).filter.loop = .closed ∧
      (u.line 0).config.pendingMode = some .convert) ∧
    (v.lu.up = true ∧ v.confirms 0 ∧ (v.line 0).decoder = .idle ∧ (v.line 0).filter.loop = .opened ∧ (v.line 0).config.mode = .convert) ∧
    (w.lu.up = true ∧ w.confirms 0 ∧ (w.line 0).decoder = .seizing ∧ (w.line 0).filter.loop = .closed ∧ (w.line 0).config.mode = .convert ∧
      (w.line 0).config.pendingMode = some .pass ∧ (w.line 0).config.taken.mode = .pass) ∧
    (x.lu.up = true ∧ x.confirms 0 ∧ (x.line 0).decoder = .fault ∧ (x.line 0).filter.loop = .closed ∧ (x.line 0).filter.fault = false) := by
  refine ⟨onLine fun l => { l with filter := openLoop 50, config := { l.config with mode := .parked } },
    onLine fun l => { l with filter := closedLoop, config := { l.config with mode := .pass, pendingMode := some .convert } },
    onLine fun l => { l with filter := openLoop 50 },
    onLine fun l => { l with filter := closedLoop, decoder := .seizing, config := { l.config with pendingMode := some .pass } },
    onLine fun l => { l with filter := closedLoop, decoder := .fault }, ?_⟩
  simp only [State.confirms]
  decide +kernel
theorem witness_BreaksThatBeginOrCountNoPulse : ∃ s u v : State,
    (s.lu.up = true ∧ s.confirms 0 ∧ (s.line 0).filter.loop = .closed ∧ (s.line 0).decoder = .inCall (.closed .indigit) someCall) ∧
    (u.lu.up = true ∧ u.confirms 0 ∧ (u.line 0).filter.loop = .opened ∧ (u.line 0).decoder = .inCall (.opened .discard) someCall ∧
      (u.line 0).filter.endedLength = 239 ∧ (u.line 0).filter.endedLength < (u.profileOf 0).pulseMin * 8) ∧
    (v.lu.up = true ∧ v.confirms 0 ∧ (v.line 0).filter.loop = .opened ∧ (v.line 0).decoder = .inCall (.opened .indigit) someCall ∧
      (v.line 0).filter.endedLength = 961 ∧ (v.profileOf 0).pulseMax * 8 < (v.line 0).filter.endedLength ∧
      (v.line 0).filter.endedLength < (v.profileOf 0).flashMin * 8) := by
  refine ⟨inCall (.closed .indigit) someCall closedLoop, inCall (.opened .discard) someCall (openLoop 239),
    inCall (.opened .indigit) someCall (openLoop 961), ?_⟩
  simp only [State.confirms]
  decide +kernel
theorem witness_BreaksThatBeginOrCountNoPulse_threshold : ∃ s u : State,
    (s.confirms 0 ∧ (s.line 0).decoder = .inCall (.opened .indigit) { someCall with makeAcc := 1000 } ∧ someCall.threshold = some 1200 ∧
      1200 = min 65535 (1000 + (s.line 0).filter.endedLength) + ((s.line 0).filter.run + 1)) ∧
    (u.confirms 0 ∧ (u.line 0).decoder = .inCall (.opened .discard) { someCall with makeAcc := 1000 } ∧
      min 65535 (1000 + (u.line 0).filter.endedLength) + ((u.line 0).filter.run + 1) + 1 = 1200) ∧
    ({ someCall with threshold := none } : Call).threshold = none := by
  refine ⟨inCall (.opened .indigit) { someCall with makeAcc := 1000 } (openLoop 176),
    inCall (.opened .discard) { someCall with makeAcc := 1000 } (openLoop 175), ?_⟩
  simp only [State.confirms]
  decide +kernel
theorem witness_PulsesBuildTheDigit : ∃ s u v : State,
    (s.lu.up = true ∧ s.confirms 0 ∧ (s.line 0).filter.loop = .opened ∧ (s.line 0).decoder = .inCall (.opened .offhook) someCall ∧
      (s.line 0).filter.endedLength = (s.profileOf 0).pulseMin * 8) ∧
    (u.lu.up = true ∧ u.confirms 0 ∧ (u.line 0).filter.loop = .opened ∧ (u.line 0).decoder = .inCall (.opened .indigit) { someCall with pulses := 19 } ∧
      (u.line 0).filter.endedLength = (u.profileOf 0).pulseMax * 8 ∧ 0 < someCall.lastBreak + someCall.makeAcc) ∧
    (v.lu.up = true ∧ v.confirms 0 ∧ (v.line 0).filter.loop = .opened ∧ (v.line 0).decoder = .inCall (.opened .discard) someCall ∧
      (v.profileOf 0).pulseMin * 8 ≤ (v.line 0).filter.endedLength ∧ (v.line 0).filter.endedLength ≤ (v.profileOf 0).pulseMax * 8) := by
  refine ⟨inCall (.opened .offhook) someCall (openLoop 240), inCall (.opened .indigit) { someCall with pulses := 19 } (openLoop 960),
    inCall (.opened .discard) someCall (openLoop 480), ?_⟩
  simp only [State.confirms]
  decide +kernel
theorem witness_OverlongDigits : ∃ s : State, s.lu.up = true ∧ s.confirms 0 ∧ (s.line 0).config.mode = .convert ∧ (s.line 0).filter.loop = .opened ∧
    (s.line 0).decoder = .inCall (.opened .indigit) { someCall with pulses := 20 } ∧
    (s.profileOf 0).pulseMin * 8 ≤ (s.line 0).filter.endedLength ∧ (s.line 0).filter.endedLength ≤ (s.profileOf 0).pulseMax * 8 := by
  refine ⟨inCall (.opened .indigit) { someCall with pulses := 20 } (openLoop 480), ?_⟩
  simp only [State.confirms]
  decide +kernel
theorem witness_FaultChanges : ∃ s u : State,
    (s.lu.up = true ∧ 15 ≤ (s.line 0).filter.faultRun ∧ (s.line 0).filter.fault = false ∧ (s.line 0).config.mode = .convert) ∧
    (u.lu.up = true ∧ 15 ≤ (u.line 0).filter.faultRun ∧ (u.line 0).filter.fault = true ∧ (u.line 0).decoder = .fault ∧
      (u.line 0).filter.loop = .opened ∧ (u.line 0).config.pendingMode = some .pass) :=
  ⟨onLine fun l => { l with filter := ⟨.opened, 100, 0, false, 15⟩ },
    onLine fun l => { l with
      filter := ⟨.opened, 100, 0, true, 15⟩
      decoder := .fault
      config := { l.config with pendingMode := some .pass } }, by decide +kernel⟩
theorem witness_ClearsEndTheCall : ((inCall (.closed .offhook) screening closedLoop).line 0).decoder = .inCall (.closed .offhook) screening ∧
    screening.codePage = some ⟨0, .a⟩ ∧ (1 : LineId) ≠ 0 := by decide +kernel
theorem witness_FlashAndClearBreaks : ∃ s u : State,
    (s.lu.up = true ∧ s.confirms 0 ∧ (s.line 0).decoder = .inCall (.opened .indigit) someCall ∧
      (s.profileOf 0).ordered = true ∧ (s.line 0).filter.loop = .opened ∧
      (s.line 0).filter.endedLength = (s.profileOf 0).flashMin * 8 ∧ (s.line 0).filter.endedLength ≤ (s.profileOf 0).flashMax * 8) ∧
    (u.lu.up = true ∧ u.confirms 0 ∧ (u.line 0).decoder = .inCall (.opened .offhook) someCall ∧ (u.line 0).config.mode = .convert ∧
      (u.line 0).filter.loop = .opened ∧ (u.line 0).config.pendingMode = some .pass ∧
      (u.line 0).filter.endedLength = (u.profileOf 0).flashMax * 8 + 1) := by
  refine ⟨inCall (.opened .indigit) someCall (openLoop 1440), onLine fun l => { l with
    decoder := .inCall (.opened .offhook) someCall
    filter := openLoop 4801
    config := { l.config with pendingMode := some .pass } }, ?_⟩
  simp only [State.confirms]
  decide +kernel

/-! ## Hypotheses that are met: calls and digits -/

theorem witness_SeizuresOpenCalls : ∃ s : State, s.lu.up = true ∧ (s.line 0).config.mode = .convert ∧ (s.line 0).decoder = .seizing ∧
    (s.profileOf 0).seizeMin * 8 = min 65535 ((s.line 0).filter.age + 1) :=
  ⟨onLine fun l => { l with filter := ⟨.closed, 479, 0, false, 0⟩, decoder := .seizing }, by decide +kernel⟩
theorem witness_DigitEndExpiriesAct : ∃ s u : State,
    (s.lu.up = true ∧ (s.line 0).config.mode = .convert ∧ (s.line 0).decoder = .inCall (.closed .indigit) someCall ∧
      someCall.threshold = some 1200 ∧
      1200 = someCall.makeAcc + min 65535 ((s.line 0).filter.age + 1) ∧ 1 ≤ someCall.pulses ∧ someCall.pulses ≤ 20) ∧
    (u.lu.up = true ∧ (u.line 0).config.mode = .convert ∧ (u.line 0).decoder = .inCall (.closed .discard) someCall ∧
      1200 = someCall.makeAcc + min 65535 ((u.line 0).filter.age + 1)) :=
  ⟨inCall (.closed .indigit) someCall ⟨.closed, 1099, 0, false, 0⟩, inCall (.closed .discard) someCall ⟨.closed, 1099, 3, false, 0⟩,
    by decide +kernel⟩
theorem witness_SpeedsAndThresholdsAreComputed : 2 ≤ someCall.pulses ∧ someCall.pulses - 1 ≤ someCall.periodSum ∧
    ({ someCall with pulses := 1 } : Call).pulses < 2 ∧ Profile.default.endFixed = false ∧
    ({ Profile.default with endFixed := true } : Profile).endFixed = true ∧ Profile.default.endMin ≤ Profile.default.endMax := by decide
theorem witness_SpeedsAndThresholdsAreComputed_within : ∃ s t : State, (s.line 0).config.mode = .convert ∧ (s.line 0).withinThreshold ∧
    (s.line 0).decoder = .inCall (.opened .indigit) someCall ∧ exec (.loopTransition 0) s = .next t := by
  refine ⟨inCall (.opened .indigit) someCall (openLoop 480), _, by decide +kernel, fun p c T _ ht => ?_, by decide +kernel, rfl⟩
  have d : ((inCall (.opened .indigit) someCall (openLoop 480)).line 0).decoder = .inCall (.opened .indigit) someCall := by decide +kernel
  rw [d]
  refine ⟨fun e => (by cases e), fun e => ?_⟩
  cases e
  cases ht
  decide
theorem witness_ClearAndDialIdleExpiriesAct : ∃ s u v : State,
    (s.lu.up = true ∧ (s.line 0).config.mode = .convert ∧ (s.line 0).decoder = .inCall (.opened .offhook) someCall ∧
      (s.profileOf 0).flashMax * 8 < min 65535 ((s.line 0).filter.age + 1) ∧ (s.line 0).config.pendingMode = none) ∧
    (u.lu.up = true ∧ (u.line 0).config.pendingMode = some .pass ∧ (u.profileOf 0).flashMax * 8 + 1 = min 65535 ((u.line 0).filter.age + 1)) ∧
    (v.lu.up = true ∧ (v.line 0).config.mode = .convert ∧ (v.line 0).decoder = .inCall (.closed .offhook) screening ∧
      clearDue 0 (agreeingSample 0 v) = false ∧ digitEndDue 0 (agreeingSample 0 v) = false ∧ screening.phase = .matching ∧ screening.fallback = none ∧
      (v.profileOf 0).dialIdle * 8 ≤ min 262143 (screening.dialIdle + 1) ∧
      (v.liveOf { screening with fallback := some 0 })[0]? = some someEntry) :=
  ⟨inCall (.opened .offhook) someCall ⟨.opened, 4800, 0, false, 0⟩,
    onLine fun l => { l with
      decoder := .inCall (.opened .offhook) someCall
      filter := ⟨.opened, 4800, 0, false, 0⟩
      config := { l.config with pendingMode := some .pass } },
    withEntry (inCall (.closed .offhook) screening closedLoop), by decide +kernel⟩
/-- The dial-idle count of a screening call is due at an arrival that also ends a discard, completes a digit or clears the call. -/
theorem witness_ClearAndDialIdleExpiriesAct_together : ∃ s u v : State,
    ((s.line 0).decoder = .inCall (.closed .discard) screening ∧ clearDue 0 (agreeingSample 0 s) = false ∧
      digitEndDue 0 (agreeingSample 0 s) = true) ∧
    ((u.line 0).decoder = .inCall (.closed .indigit) screening ∧ digitEndDue 0 (agreeingSample 0 u) = true) ∧
    ((v.line 0).decoder = .inCall (.opened .offhook) screening ∧ clearDue 0 (agreeingSample 0 v) = true) ∧
    (screening.phase = .matching ∧ (s.profileOf 0).dialIdle * 8 ≤ min 262143 (screening.dialIdle + 1)) :=
  ⟨inCall (.closed .discard) screening ⟨.closed, 1099, 0, false, 0⟩, inCall (.closed .indigit) screening ⟨.closed, 1099, 0, false, 0⟩,
    inCall (.opened .offhook) screening ⟨.opened, 4800, 0, false, 0⟩, by decide +kernel⟩
theorem witness_ScreensDecideAndResolve : ∃ s : State, s.callOf 0 = some screening ∧ screening.phase = .matching ∧
    screening.fallback = none ∧ s.liveOf screening = [someEntry] ∧ classify (screening.held ++ [5]) someEntry = .dead ∧
    someEntry.code = screening.held ++ [0] ∧ classify ([] ++ [1]) someEntry = .pending ∧ classify [] someEntry = .pending ∧
    decideScreen [someEntry] [1, 0] (some 0) = .found 0 :=
  ⟨withEntry (inCall (.closed .offhook) screening closedLoop), by decide +kernel⟩

/-- A call that holds 1 0 with the entry at offset 1 as its fallback, below which a longer code is open. -/
def waiting : Call := { screening with held := [1, 0], fallback := some 1 }

/-- Line 0 with that call: entries 1 0 2 4 and 1 0. -/
def waitingCall : State :=
  { inCall (.closed .offhook) waiting closedLoop with
    code := vmod State.reset.code 0 fun p => { p with pageA := (p.pageA.set 0 { someEntry with code := [1, 0, 2, 4] }).set 1 someEntry } }

theorem witness_ScreensDecideAndResolve_fallback : waitingCall.callOf 0 = some waiting ∧ waiting.fallback = some 1 ∧
    waitingCall.liveOf waiting = [{ someEntry with code := [1, 0, 2, 4] }, someEntry] ∧
    classify (waiting.held ++ [2]) { someEntry with code := [1, 0, 2, 4] } = .pending ∧
    classify (waiting.held ++ [3]) { someEntry with code := [1, 0, 2, 4] } = .dead ∧
    ({ someEntry with code := [1, 0, 2] } : CodeEntry).code = waiting.held ++ [2] := by decide +kernel
theorem witness_ItemsJoinTheQueue : ∃ s u : State, (s.line 0).emission.queue.length + 1 ≤ 16 ∧
    16 < (u.line 0).emission.queue.length + 1 ∧ (s.callOf 0).isSome = true ∧ someCall.phase = .free :=
  ⟨inCall (.closed .offhook) someCall closedLoop,
    onLine fun l => { l with emission := { l.emission with queue := List.replicate 16 .flash } }, by decide +kernel⟩

/-! ## Hypotheses that are met: emitter, quality -/

theorem witness_EmittersTakeItems : ∃ s u v w x : State,
    ((s.line 0).emission.state = .quiet ∧ (s.line 0).emission.firstWait = none ∧ (s.line 0).emission.hold = false ∧
      (s.line 0).emission.slot = some ⟨4, true, .waiting⟩) ∧
    ((u.line 0).emission.slot = none ∧ (u.line 0).emission.queue = .digit 4 :: [.flash]) ∧
    ((v.line 0).emission.slot = none ∧ (v.line 0).emission.queue = .flash :: []) ∧
    (w.line 0).emission.hold = true ∧ ((x.line 0).emission.queue = [] ∧ (x.line 0).emission.slot = none) :=
  ⟨onLine fun l => { l with emission := { l.emission with slot := some ⟨4, true, .waiting⟩ } },
    onLine fun l => { l with emission := { l.emission with queue := [.digit 4, .flash] } },
    onLine fun l => { l with emission := { l.emission with queue := [.flash] } },
    onLine fun l => { l with emission := { l.emission with hold := true } }, State.reset, by decide +kernel⟩
theorem witness_BurstsAreSynthesised : (State.reset.burstOf 0 1).sample = 0 := rfl
theorem witness_EmitterStatesEnd : ∃ s u v w x y : State,
    ((s.line 0).emission.state = .tone { State.reset.burstOf 0 1 with remaining := 0 }) ∧
    ((u.line 0).emission.state = .flashOut 0 2400) ∧ ((v.line 0).emission.state = .guard 0) ∧
    ((w.line 0).emission.state = .gap 0 ∧ (w.line 0).emission.slot = none) ∧
    ((x.line 0).emission.state = .gap 0 ∧ (x.line 0).emission.slot = some ⟨4, true, .emitting⟩) ∧
    ((y.line 0).emission.firstWait = some 1) :=
  ⟨onLine fun l => { l with emission := { l.emission with state := .tone { State.reset.burstOf 0 1 with remaining := 0 } } },
    onLine fun l => { l with emission := { l.emission with state := .flashOut 0 2400 } },
    onLine fun l => { l with emission := { l.emission with state := .guard 0 } },
    onLine fun l => { l with emission := { l.emission with state := .gap 0 } },
    onLine fun l => { l with emission := { l.emission with state := .gap 0, slot := some ⟨4, true, .emitting⟩ } },
    onLine fun l => { l with emission := { l.emission with firstWait := some 1 } }, by decide +kernel⟩
theorem witness_EmitterStatesEnd_counting : ∃ s u v w x : State,
    ((s.line 0).emission.state = .tone { State.reset.burstOf 0 1 with remaining := 558 + 1 }) ∧
    ((u.line 0).emission.state = .flashOut (0 + 1) 2400) ∧ ((v.line 0).emission.state = .guard (8 + 1)) ∧
    ((w.line 0).emission.state = .gap (0 + 1)) ∧ (x.line 0).emission.state = .quiet :=
  ⟨onLine fun l => { l with emission := { l.emission with state := .tone { State.reset.burstOf 0 1 with remaining := 559 } } },
    onLine fun l => { l with emission := { l.emission with state := .flashOut 1 2400 } },
    onLine fun l => { l with emission := { l.emission with state := .guard 9 } },
    onLine fun l => { l with emission := { l.emission with state := .gap 1 } }, State.reset, by decide +kernel⟩
theorem witness_QualityWindowsEnd : ∃ s u : State, DigitReport.wf ⟨3, 1, false, false, some 100⟩ = true ∧
    s.lu.up = true ∧ (s.line 0).config.mode = .convert ∧
    s.part.qualWindow = min 65535 ((s.line 0).quality.current.digitsEnded + 1) ∧
    min 65535 ((State.reset.line 0).quality.current.digitsEnded + 1) < State.reset.part.qualWindow ∧ (u.line 0).config.mode ≠ .convert ∧ State.reset.lu.up = false :=
  ⟨onLine fun l => { l with quality := { l.quality with current := { l.quality.current with digitsEnded := 99 } } },
    onLine fun l => { l with config := { l.config with mode := .pass } }, by decide +kernel⟩

/-! ## Hypotheses that are met: sample arrivals -/

theorem witness_ArrivalsTakeTheirSteps : ∃ s u v w : State,
    (s.confirms 0 ∧ (s.line 0).config.mode = .convert ∧ (s.line 0).filter.loop = .opened ∧
      (s.line 0).decoder = .inCall (.opened .indigit) { someCall with makeAcc := 1000 } ∧ someCall.threshold = some 1200 ∧
      (s.line 0).filter.endedLength < (s.profileOf 0).pulseMin * 8 ∧
      1200 ≤ min 65535 (1000 + (s.line 0).filter.endedLength) + ((s.line 0).filter.run + 1) ∧ (s.profileOf 0).ordered = true) ∧
    ((u.line 0).config.mode = .pass ∧
      (∃ d, ((u.line 0).filter.takeLoop (u.profileOf 0) false).2 = .confirmed .opened d) ∧ (u.line 1).config.mode = .parked) ∧
    (false = (v.line 0).filter.fault ∧ (v.line 0).filter.faultRun = 15 ∧ (v.line 0).decoder = .seizing) ∧
    ((w.line 0).filter.fault = true ∧ (w.line 0).filter.faultRun = 15 ∧ (w.line 0).decoder = .fault) := by
  refine ⟨inCall (.opened .indigit) { someCall with makeAcc := 1000 } (openLoop 200),
    (onLine fun l => { l with filter := closedLoop, config := { l.config with mode := .pass } }).modLine 1 fun l =>
      { l with config := { l.config with mode := .parked } },
    onLine fun l => { l with filter := ⟨.closed, 100, 0, false, 15⟩, decoder := .seizing },
    onLine fun l => { l with filter := ⟨.opened, 100, 0, true, 15⟩, decoder := .fault }, ?_, ?_, by decide +kernel, by decide +kernel⟩
  · simp only [State.confirms]
    decide +kernel
  · exact ⟨by decide +kernel, ⟨2385, by decide +kernel⟩, by decide +kernel⟩

/-! ## Hypotheses that are met: the Management Channel -/

theorem ready_reset : State.reset.ready := ⟨rfl, by decide⟩

theorem witness_ReceiverFramesMessages : State.reset.receiver = .seek ∧ (List.replicate 62 (0 : Byte)).length ≤ 62 ∧ (0x00 : Byte) ≠ 0xC3 ∧
    ({ State.reset with receiver := .length } : State).receiver = .length ∧ (65 : Byte).toNat > 64 ∧ (1 : Byte).toNat < 2 ∧
    ({ State.reset with receiver := .check [0x01, 0x28] (some 0x2C) } : State).receiver = .check [0x01, 0x28] (some 0x2C) ∧
    (0x2C : Byte) ≠ (octet 2 :: [0x01, 0x28]).foldl (· + ·) 0 := by decide
theorem witness_TheSlotHoldsOneRequest : State.reset.ready ∧ State.reset.slot = none ∧
    (∃ s : State, s.slot = none ∧ 4 ≤ s.replies.length) ∧ (∃ (s : State) (q : Request), s.slot = some q) ∧
    0x17 < (0x18 : Byte).toNat ∧ State.reset.cursor.table = .trans 0 :=
  ⟨ready_reset, rfl, ⟨{ State.reset with replies := List.replicate 4 ⟨0, 0, .refuse .format, false⟩ }, rfl, by decide⟩,
    ⟨{ State.reset with slot := some ⟨1, 2, []⟩ }, _, rfl⟩, by decide, rfl⟩
theorem witness_TheTransmitterChooses : ∃ s r f u v : State,
    (s.tx = none ∧ s.replies = [⟨0, 0, .refuse .format, false⟩] ∧ s.attention = true ∧ s.lastSent = .notice ∧ s.slot = none) ∧
    (r.tx = none ∧ r.replies = [⟨0, 0, .refuse .format, false⟩] ∧ r.attention = false ∧ r.slot = some ⟨1, 1, []⟩) ∧
    (f.tx = none ∧ f.replies = List.replicate 5 ⟨0, 0, .refuse .format, false⟩ ∧ f.attention = false ∧ f.slot = some ⟨1, 1, []⟩) ∧
    (u.tx = none ∧ u.attention = true ∧ u.replies = [] ∧ u.partInMap = true) ∧
    (v.tx = some ⟨[1, 2], false⟩) ∧ State.reset.partInMap = false ∧ ∀ n, (State.reset.line n).inMap = false :=
  ⟨{ State.reset with replies := [⟨0, 0, .refuse .format, false⟩], attention := true },
    { State.reset with replies := [⟨0, 0, .refuse .format, false⟩], slot := some ⟨1, 1, []⟩ },
    { State.reset with replies := List.replicate 5 ⟨0, 0, .refuse .format, false⟩, slot := some ⟨1, 1, []⟩ },
    { State.reset with attention := true, partEvents := 1 }, { State.reset with tx := some ⟨[1, 2], false⟩ },
    ⟨rfl, rfl, rfl, rfl, rfl⟩, ⟨rfl, rfl, rfl, rfl⟩, ⟨rfl, rfl, rfl, rfl⟩, ⟨rfl, rfl, rfl, by decide⟩, rfl, by decide,
    by decide +kernel⟩
/-- The two octet positions of a free transmitter with one reply waiting carry SYNC and LEN. -/
theorem test_sendOctet_startsTheReply :
    (sendOctet { State.reset with replies := [⟨7, 2, .refuse .format, false⟩] }).1 = 0xC3 ∧
    (sendOctet (sendOctet { State.reset with replies := [⟨7, 2, .refuse .format, false⟩] }).2).1 = 4 := by decide +kernel
theorem witness_SoftResetsActAfterTheirReply : ∃ s u : State, (s.ready ∧ s.softReset = true) ∧ u.tx = some ⟨[7], true⟩ ∧
    State.reset.softReset = false :=
  ⟨{ State.reset with softReset := true }, { State.reset with tx := some ⟨[7], true⟩ }, ⟨⟨rfl, by decide⟩, rfl⟩, rfl, rfl⟩
theorem witness_IdentityIsFixed : State.reset.ready := ready_reset
theorem witness_StatusReadsReportAndClear : State.reset.ready ∧ 48 ≤ (48 : Byte).toNat ∧ State.reset.clock = .freeRunning ∧
    (∃ t, exec (.muteWaitLimit 3) State.reset = .next t) ∧ (.muteWaitLimit 3 : Instr) ≠ .muteWaitLimit 4 ∧
    (.muteWaitLimit 3 : Instr) ≠ .outputFrame ∧ (.muteWaitLimit 3 : Instr) ≠ .powerOnReset :=
  ⟨ready_reset, by decide, rfl, ⟨_, rfl⟩, by decide, by decide, by decide⟩
theorem witness_PartConfigurationIsReadAndWritten : State.reset.ready ∧ number2 0 100 = 100 ∧ number2 3 0xE8 = 1000 ∧ number2 0 101 ≠ 100 ∧
    number2 0 101 ≠ 1000 := ⟨ready_reset, by decide⟩
theorem witness_LineConfigurationIsWritten : State.reset.ready ∧ (State.reset.line 0).config.mode = .convert ∧
    (State.reset.line 0).decoder = .idle ∧ (∃ s : State, s.ready ∧ (s.line 0).config.mode = .parked) ∧
    (∃ s : State, s.ready ∧ (s.line 0).config.mode = .pass ∧ (s.line 0).filter.loop = .closed) ∧
    (∃ s : State, s.ready ∧ (s.line 0).config.mode = .convert ∧ (s.line 0).decoder ≠ .idle) ∧
    48 ≤ numAt [48, 0, 0, 0, 0, 0, 0, 0, 0] 0 ∧ 2 < numAt [0, 3, 0, 0, 0, 0, 0, 0, 0] 1 :=
  ⟨ready_reset, by decide +kernel, by decide +kernel,
    ⟨onLine fun l => { l with config := { l.config with mode := .parked } }, ⟨rfl, by decide⟩, by decide +kernel⟩,
    ⟨onLine fun l => { l with config := { l.config with mode := .pass }, filter := closedLoop }, ⟨rfl, by decide⟩, by decide +kernel⟩,
    ⟨onLine fun l => { l with decoder := .seizing }, ⟨rfl, by decide⟩, by decide +kernel⟩, by decide, by decide⟩
theorem witness_LineRecordsAreReadAndReset : State.reset.ready ∧ (State.reset.line 47).config.meterMode = .resetOnRead ∧
    (∃ s : State, s.ready ∧ (s.line 0).config.meterMode = .hold) ∧ 48 ≤ (48 : Byte).toNat :=
  ⟨ready_reset, by decide +kernel,
    ⟨onLine fun l => { l with config := { l.config with meterMode := .hold } }, ⟨rfl, by decide⟩, by decide +kernel⟩, by decide⟩
theorem witness_ProfilesAreRead : State.reset.ready ∧ 8 ≤ (8 : Byte).toNat := ⟨ready_reset, by decide⟩
theorem witness_ProfilesAreWritten : State.reset.ready ∧ Profile.default.inRange ∧ Profile.default.ordered = true ∧
    ({ Profile.default with flashMin := 100 } : Profile).inRange ∧ ({ Profile.default with flashMin := 100 } : Profile).ordered = false ∧
    Profile.default.octets.length = 38 ∧ (ProfileWire.ofOctets Profile.default.octets).codeSet = 255 ∧
    (ProfileWire.ofOctets (Profile.default.octets.set 27 4)).codeSet = 4 := by
  refine ⟨ready_reset, ?_, by decide, ?_, by decide, by decide, by decide, by decide⟩ <;> unfold Profile.inRange <;> decide
theorem witness_LayoutsReadBack : someEntry.valid ∧ CodeEntry.cleared.valid ∧ (⟨0, 65535, 0, 65535⟩ : ToneEntry).aHigh < 65536 ∧
    Profile.default.inRange ∧ State.reset.part.inRange ∧ State.reset.cursor.offset ≤ State.reset.cursor.table.size := by
  refine ⟨?_, Or.inl rfl, by decide, ?_, ?_, by decide⟩
  · unfold CodeEntry.valid
    decide
  · unfold Profile.inRange
    decide
  · unfold PartConfig.inRange
    decide
theorem witness_TheCursorIsSet : State.reset.ready ∧ (⟨.trans 7, .b, 20, true⟩ : Cursor).offset ≤ (TableRef.trans 7).size ∧
    2 < (3 : Byte).toNat ∧ 1 < (2 : Byte).toNat ∧ 8 ≤ (8 : Byte).toNat ∧ 16 < (17 : Byte).toNat := ⟨ready_reset, by decide⟩

/-- The part after reset with the cursor somewhere. -/
def cursorAt (c : Cursor) : State := { State.reset with cursor := c }

theorem ready_cursorAt (c : Cursor) : (cursorAt c).ready := ready_reset

theorem witness_TableWritesStoreTheirEntries :
    (∃ s : State, s.ready ∧ s.cursor.table = .trans 0 ∧ (s.xlat.get 0).locked = true) ∧
    ((cursorAt ⟨.trans 0, .a, 0, true⟩).ready ∧ ((cursorAt ⟨.trans 0, .a, 0, true⟩).xlat.get 0).active = .a) ∧
    (∃ s : State, s.ready ∧ s.cursor.table = .trans 0 ∧ (s.xlat.get 0).active ≠ s.cursor.page ∧ 0 < (s.xlat.get 0).bound s.cursor.page) ∧
    ((cursorAt ⟨.trans 0, .b, 19, true⟩).ready ∧ ((cursorAt ⟨.trans 0, .b, 19, true⟩).xlat.get 0).active ≠ .b ∧
      ((cursorAt ⟨.trans 0, .b, 19, true⟩).xlat.get 0).bound .b = 0 ∧ 19 + 1 ≤ 20 ∧ 20 < 19 + 2) ∧
    ((cursorAt ⟨.code 3, .b, 15, true⟩).ready ∧ ((cursorAt ⟨.code 3, .b, 15, true⟩).code.get 3).bound .b = 0 ∧
      ([someEntry.octets].map codeEntryOf = [someEntry].map some) ∧ (∀ bs ∈ [someEntry.octets], bs.length = 9)) ∧
    (codeEntryOf [0, 0x10, 0, 0, 0, 0, 0, 0, 0] = none ∧ (someEntry.octets ++ [0, 0x10, 0, 0, 0, 0, 0, 0, 0]).length % 9 = 0 ∧
      (∃ s : State, s.ready ∧ s.cursor.table = .code 0 ∧ (s.code.get 0).active = s.cursor.page ∧ (s.code.get 0).locked = false) ∧
      (∃ s : State, s.ready ∧ s.cursor.table = .code 0 ∧ (s.code.get 0).locked = true) ∧
      (∃ s : State, s.ready ∧ s.cursor.table = .code 0 ∧ (s.code.get 0).locked = false ∧ (s.code.get 0).active ≠ s.cursor.page ∧
        0 < (s.code.get 0).bound s.cursor.page) ∧
      [0x12, 0x05] = [TransValue.reject, .symbol 5].map TransValue.code ∧
      128 ≤ numAt [0x83, 0xFF, 1, 2, 3, 4, 5, 6, 7] 0 ∧ numAt [2, 0x61, 0, 0, 0, 0, 0, 0, 0] 1 / 16 ≤ 6) ∧
    ((cursorAt ⟨.tone, .a, 9, true⟩).ready ∧ 9 + 7 ≤ 16 ∧ 0x12 < (0x13 : Byte).toNat) := by
  refine ⟨⟨{ cursorAt ⟨.trans 0, .a, 0, true⟩ with xlat := vmod State.reset.xlat 0 PagedSet.lock }, ⟨rfl, by decide⟩, rfl, by decide +kernel⟩,
    ⟨ready_cursorAt _, by decide +kernel⟩,
    ⟨{ cursorAt ⟨.trans 0, .b, 0, true⟩ with xlat := vmod State.reset.xlat 0 (PagedSet.bind .b) }, ⟨rfl, by decide⟩, rfl, by decide +kernel,
      by decide +kernel⟩,
    ⟨ready_cursorAt _, by decide +kernel⟩, ⟨ready_cursorAt _, by decide +kernel, by decide, by decide⟩,
    ⟨by decide, by decide, ⟨cursorAt ⟨.code 0, .a, 0, true⟩, ready_cursorAt _, rfl, by decide +kernel, by decide +kernel⟩,
      ⟨{ cursorAt ⟨.code 0, .a, 0, true⟩ with code := vmod State.reset.code 0 PagedSet.lock }, ⟨rfl, by decide⟩, rfl, by decide +kernel⟩,
      ⟨{ cursorAt ⟨.code 0, .b, 0, true⟩ with code := vmod State.reset.code 0 (PagedSet.bind .b) }, ⟨rfl, by decide⟩, rfl,
        by decide +kernel, by decide +kernel, by decide +kernel⟩,
      by decide, by decide, by decide⟩, ready_cursorAt _, by decide⟩
/-- On a locked set a write that carries no value is refused LOCKED, not VALUE (R89). -/
theorem test_tableWrite_lockedBeforeValue : ∃ s : State, (s.xlat.get 0).locked = true ∧
    (writeTrans 0 [0x13] s).answer = .refuse .locked ∧ (writeTrans 0 [0x13] State.reset).answer = .refuse .active :=
  ⟨{ State.reset with xlat := vmod State.reset.xlat 0 PagedSet.lock }, by decide +kernel, by decide +kernel, by decide +kernel⟩
theorem witness_TablesAreReadAndCompared :
    ((cursorAt ⟨.code 0, .a, 10, true⟩).ready ∧ (cursorAt ⟨.code 0, .a, 10, true⟩).cursorReadRefusal = none ∧ (7 : Byte) ≠ 0 ∧
      10 + 6 ≤ 16 ∧ (TableRef.code 0).mostRead = 6) ∧
    (cursorAt ⟨.tone, .a, 16, true⟩).cursorReadRefusal = none ∧
    (∃ s : State, s.ready ∧ s.cursorReadRefusal = some .locked) ∧
    ((TableRef.trans 0).carries [0x12] [.trans .reject] false ∧
      (cursorAt ⟨.trans 1, .a, 18, false⟩).cursorEntries[18 + 0]? = some (.trans .reject) ∧ (.trans .reject : Entry) ≠ .trans .flash) ∧
    ((TableRef.code 0).carries someEntry.octets [.code someEntry] false ∧ (TableRef.trans 0).carriesNoValue [0x12, 0x13]) ∧
    (TableRef.tone.carries [0, 0, 0, 200, 0, 0, 0, 0] [.tone ⟨200, 200, 0, 0⟩] true ∧
      16 < (cursorAt ⟨.tone, .a, 16, true⟩).cursor.offset + 1) := by
  refine ⟨⟨ready_cursorAt _, by decide +kernel⟩, by decide +kernel,
    ⟨{ cursorAt ⟨.trans 0, .a, 0, true⟩ with xlat := vmod State.reset.xlat 0 PagedSet.lock }, ⟨rfl, by decide⟩, by decide +kernel⟩,
    ⟨⟨[.reject], by decide, by decide, rfl, rfl⟩, by decide +kernel, by decide⟩,
    ⟨⟨[someEntry.octets], [someEntry], by decide, by decide, by decide, by decide, rfl, rfl⟩, by decide, 0x13, by decide, by decide⟩,
    ⟨[[0, 0, 0, 200, 0, 0, 0, 0]], by decide, by decide, by decide, by decide, by decide⟩, by decide⟩
theorem witness_TablesAreClearedAndChecked :
    ((cursorAt ⟨.trans 0, .b, 20, false⟩).ready ∧ ((cursorAt ⟨.trans 0, .b, 20, false⟩).xlat.get 0).locked = false ∧
      ((State.reset.xlat.get 0).entries .a).get 0 ≠ .reject ∧ ∀ j, ((State.reset.xlat.get 0).entries .b).get j = .reject) ∧
    ((cursorAt ⟨.code 0, .b, 16, false⟩).ready ∧ ((State.reset.code.get 0).entries .b).get 15 = ⟨true, [], none, false, []⟩) ∧
    ((cursorAt ⟨.tone, .b, 16, false⟩).ready ∧ (ToneEntry.ofPair 200 200) ≠ State.reset.tones.get 0) :=
  ⟨⟨ready_cursorAt _, by decide +kernel⟩, ⟨ready_cursorAt _, by decide +kernel⟩, ready_cursorAt _, by decide +kernel⟩
theorem witness_SetRequestsChangeTheirSet : State.reset.ready ∧ (State.reset.xlat.get 7).locked = false ∧ (State.reset.code.get 3).boundA = 0 ∧
    (∃ s : State, s.ready ∧ (s.code.get 0).locked = true ∧ 0 < (s.xlat.get 0).boundB) ∧ 2 ≤ (2 : Byte).toNat ∧ 4 ≤ (4 : Byte).toNat :=
  ⟨ready_reset, by decide +kernel, by decide +kernel,
    ⟨{ State.reset with code := vmod State.reset.code 0 PagedSet.lock, xlat := vmod State.reset.xlat 0 (PagedSet.bind .b) },
      ⟨rfl, by decide⟩, by decide +kernel, by decide +kernel⟩, by decide, by decide⟩
theorem witness_EmitterRequestsActOnCalls : State.reset.ready ∧ State.reset.callOf 47 = none ∧
    (∃ s : State, s.ready ∧ (s.callOf 0).isSome = true ∧ (s.line 0).emission.slot = none) ∧
    (∃ s : State, s.ready ∧ (s.callOf 0).isSome = true ∧ (s.line 0).emission.slot.isSome = true) ∧ 16 ≤ (16 : Byte).toNat :=
  ⟨ready_reset, by decide +kernel, ⟨inCall (.closed .offhook) someCall closedLoop, ⟨rfl, by decide⟩, by decide +kernel, by decide +kernel⟩,
    ⟨onLine fun l => { l with
      decoder := .inCall (.closed .offhook) someCall
      emission := { l.emission with slot := some ⟨4, true, .emitting⟩ } }, ⟨rfl, by decide⟩, by decide +kernel, by decide +kernel⟩,
    by decide⟩

end Sys2Proof.Tests
end

section
/-! PROOF. O9: the registers stay in range. Each of the four laws is kept by the updates of `Closed`, so by every step. -/

namespace Sys2Proof.Machine

/-! ## Laws that do not speak of the lines -/

/-- A property that no change of the lines, of the sets or of the attention-wanted flag touches is kept by every update of a line. -/
theorem lineClosed_of_free {P : State → Prop} (attention : ∀ {s} (a : Bool), P s → P { s with attention := a })
    (lines : ∀ {s} (ls : Vector Line 48), P s → P { s with lines := ls })
    (sets : ∀ {s} (x : Vector TransSet 8) (c : Vector CodeSet 4), P s → P { s with xlat := x, code := c }) (n : LineId) :
    LineClosed n P where
  attention a p := attention a p
  line _ p _ := lines _ p
  filter _ p _ := lines _ p
  opening p _ := lines _ (sets _ _ p)
  clear d p _ _ := by
    unfold clearCall
    split
    · exact lines _ (sets _ _ p)
    all_goals exact lines _ p

theorem clamp_inRange {lo hi : Nat} (h : lo ≤ hi) (v : Nat) : lo ≤ clamp lo hi v ∧ clamp lo hi v ≤ hi := by
  unfold clamp
  split
  · exact ⟨le_refl _, h⟩
  · split <;> omega

/-- Clamping brings every field of R31 but QUAL_WINDOW into its range. -/
theorem partConfig_clamped_inRange {c : PartConfig} (window : c.qualWindow = 100 ∨ c.qualWindow = 1000) : c.clamped.inRange :=
  ⟨clamp_inRange (by decide) _, clamp_inRange (by decide) _, clamp_inRange (by decide) _, window, clamp_inRange (by decide) _,
    clamp_inRange (by decide) _⟩

/-- Clamping brings every field of R17 into its range. -/
theorem profileWire_clamped_inRange (w : ProfileWire) (k : Option (Fin 4)) : (w.clamped.toProfile k).inRange := by
  refine ⟨?_, ?_, ?_, ?_, ?_, ?_, ?_, ?_, ?_, ?_, ?_, ?_, ?_, ?_, ?_, ?_, ?_, ?_, ?_, ?_, (clamp_inRange (Nat.zero_le 3000) _).2⟩ <;>
  exact clamp_inRange (by decide) _

theorem profile_default_inRange : Profile.default.inRange := by
  unfold Profile.inRange
  decide

theorem reset_configurationLawful : State.reset.configurationLawful := by
  refine ⟨fun k => ?_, ?_⟩
  · have default : State.reset.profiles.get k = Profile.default := by simp [State.reset, Vector.get_eq_getElem]
    rw [default]
    exact ⟨profile_default_inRange, by decide⟩
  · unfold PartConfig.inRange
    decide

/-- R17, R19, R31: profiles are written clamped and ordered, the part configuration clamped. -/
theorem closed_configurationLawful : Closed State.configurationLawful where
  on := lineClosed_of_free (fun _ p => p) (fun _ p => p) fun _ _ p => p
  small p e := by rw [e]; exact p
  config c p window := ⟨p.1, partConfig_clamped_inRange window⟩
  profile {s} k w cs p ordered := by
    refine ⟨fun j => ?_, p.2⟩
    rw [Vector.get_eq_getElem]
    by_cases same : k.val = j.val
    · simp only [same, Vector.getElem_set_self]
      exact ⟨profileWire_clamped_inRange w cs, ordered⟩
    · simp only [Vector.getElem_set_ne _ _ same, ← Vector.get_eq_getElem]
      exact p.1 j
  trans _ _ p _ _ := p
  code _ _ p _ _ := p
  tones _ p := p
  management p e := by rw [e]; exact p
  replies _ p _ := p
  ports p e := by rw [e]; exact p
  paced p := p
  carried p := p
  voice _ _ p := p
  lu _ p _ := p
  luLock p := p
  luLoss p := p
  luFrame _ p _ := p
  sd _ p _ := p
  sdLock p := p
  sdLoss p := p
  sdFrame _ p _ := p
  reset _ := reset_configurationLawful

theorem reset_clockLawful : State.reset.clockLawful := by
  unfold State.clockLawful
  decide

/-- R3, R4: the SD lock takes the clock over, and the SD loss gives it back and empties the list of SD frames. -/
theorem closed_clockLawful : Closed State.clockLawful where
  on := lineClosed_of_free (fun _ p => p) (fun _ p => p) fun _ _ p => p
  small p e := by rw [e]; exact p
  config _ p _ := p
  profile _ _ _ p _ := p
  trans _ _ p _ _ := p
  code _ _ p _ _ := p
  tones _ p := p
  management p e := by rw [e]; exact p
  replies _ p _ := p
  ports p e := by rw [e]; exact p
  paced p := ⟨p.1, fun down => by simp [p.2 down]⟩
  carried p := p
  voice _ _ p := p
  lu _ p _ := p
  luLock p := p
  luLoss p := p
  luFrame _ p _ := p
  sd _ p same := ⟨by rw [setAligner_sd_clock, setAligner_sd_sd, same]; exact p.1, fun down => p.2 (same.symm.trans down)⟩
  sdLock _ := ⟨⟨fun _ => rfl, fun _ => rfl⟩, fun down => (nomatch down)⟩
  sdLoss _ := ⟨⟨fun h => (nomatch h), fun h => (nomatch h)⟩, fun _ => rfl⟩
  sdFrame _ p up := ⟨p.1, fun down => (nomatch up.symm.trans down)⟩
  reset _ := reset_clockLawful

/-- R10, R11: a frame waits only from a machine that is up, and the LU loss discards it. -/
theorem closed_lineTimeLawful : Closed State.lineTimeLawful where
  on := lineClosed_of_free (fun _ p => p) (fun _ p => p) fun _ _ p => p
  small p e := by rw [e]; exact p
  config _ p _ := p
  profile _ _ _ p _ := p
  trans _ _ p _ _ := p
  code _ _ p _ _ := p
  tones _ p := p
  management p e := by rw [e]; exact p
  replies _ p _ := p
  ports p e := by rw [e]; exact p
  paced p := p
  carried _ := fun _ => rfl
  voice _ _ p := p
  lu _ p same := fun down => p (same.symm.trans down)
  luLock _ := fun down => (nomatch down)
  luLoss _ := fun _ => rfl
  luFrame _ _ up := fun down => (nomatch up.symm.trans down)
  sd _ p _ := p
  sdLock p := p
  sdLoss p := p
  sdFrame _ p _ := p
  reset _ := fun _ => rfl

/-! ## The queues -/

/-- No update of a line but those of its emission changes its queue, and those bring no more than 16 items together. -/
theorem queue_lineStep {l l' : Line} (h : LineStep l l') (few : l.emission.queue.length ≤ 16) : l'.emission.queue.length ≤ 16 := by
  cases h with
  | keep _ _ _ emission _ _ => exact emission.2.trans (max_le (le_refl _) few)
  | noCall _ _ _ _ => exact few
  | call _ _ _ => exact few
  | enter _ _ _ => exact few
  | park _ => exact few
  | cancel => exact few
  | defer _ _ _ _ => exact few

theorem queuesBounded_modLine {s : State} {n : LineId} {f : Line → Line} (p : s.queuesBounded)
    (few : (f (s.line n)).emission.queue.length ≤ 16) : (s.modLine n f).queuesBounded := by
  refine ⟨fun m => ?_, p.2⟩
  rw [line_modLine]
  split
  · exact few
  · exact p.1 m

theorem lineClosed_queuesBounded (n : LineId) : LineClosed n State.queuesBounded where
  attention _ p := p
  line _ p step := queuesBounded_modLine p (queue_lineStep step (p.1 n))
  filter _ p step := queuesBounded_modLine p (queue_lineStep step (p.1 n) :)
  opening p _ := queuesBounded_modLine (s := State.bindPages _ _ _) p (p.1 n)
  clear d p _ _ := by
    unfold clearCall
    split
    · exact queuesBounded_modLine (s := State.unbindPages _ _ _) p (Nat.zero_le 16)
    all_goals exact queuesBounded_modLine p (p.1 n)

theorem reset_queuesBounded : State.reset.queuesBounded := by
  refine ⟨fun n => ?_, Nat.zero_le 4⟩
  simp [State.line, State.reset, Vector.get_eq_getElem, Line.reset, Emission.idle]

/-- R117, R165: items beyond 16 are discarded, and a request is executed only where fewer than 4 replies wait. -/
theorem closed_queuesBounded : Closed State.queuesBounded where
  on := lineClosed_queuesBounded
  small p e := by rw [e]; exact p
  config _ p _ := p
  profile _ _ _ p _ := p
  trans _ _ p _ _ := p
  code _ _ p _ _ := p
  tones _ p := p
  management p e := by rw [e]; exact p
  replies _ p few := ⟨p.1, few.trans (max_le (le_refl _) p.2)⟩
  ports p e := by rw [e]; exact p
  paced p := p
  carried p := p
  voice n _ p := queuesBounded_modLine p (p.1 n)
  lu _ p _ := p
  luLock p := p
  luLoss p := p
  luFrame _ p _ := p
  sd _ p _ := p
  sdLock p := p
  sdLoss p := p
  sdFrame _ p _ := p
  reset _ := reset_queuesBounded

/-- Settles O9: each law is kept by every update, and a change of the command queue touches none of them. -/
theorem registersStayInRange : Obligations.RegistersStayInRange :=
  ⟨fun _ _ => closed_configurationLawful.step fun _ _ p => p, fun _ _ => closed_clockLawful.step fun _ _ p => p,
    fun _ _ => closed_lineTimeLawful.step fun _ _ p => p, fun _ _ => closed_queuesBounded.step fun _ _ p => p⟩

end Sys2Proof.Machine
end

section
/-! PROOF. O10: an event of one line changes that line, bound counts and the attention-wanted flag only. The updates of `LineClosed` let
the attention-wanted flag take any value, so that it is never cleared is said by updates of their own. -/

namespace Sys2Proof.Machine

/-- A property that every change of line `n`, every binding and unbinding, and every latch of line `n` keeps, whatever the line held. -/
structure LineMoves (n : LineId) (P : State → Prop) : Prop where
  line : ∀ {s} (f), P s → P (s.modLine n f)
  mapped : ∀ {s} (f), P s → P (s.modLineMapped n f)
  bind : ∀ {s} (t c), P s → P (s.bindPages t c)
  unbind : ∀ {s} (t c), P s → P (s.unbindPages t c)

namespace LineMoves

variable {n : LineId} {P : State → Prop} {s : State}

/-! ## Flags, quality and the Code Matcher -/

theorem latch (h : LineMoves n P) (e : LineEvent) (p : P s) : P (latch n e s) := h.mapped _ p

theorem latchReject (h : LineMoves n P) (r : RejectReason) (p : P s) : P (latchReject n r s) := h.latch _ (h.line _ p)

theorem endWindow (h : LineMoves n P) (p : P s) : P (endWindow n s) := by
  unfold Machine.endWindow
  dsimp only
  split
  · exact h.latch _ (h.line _ p)
  · exact h.line _ p

theorem reportDigit (h : LineMoves n P) (r : DigitReport) (p : P s) : P (reportDigit n r s) := by
  unfold Machine.reportDigit
  dsimp only
  split
  · exact h.endWindow (h.line _ p)
  · exact h.line _ p

theorem bring (h : LineMoves n P) (items : List Item) (p : P s) : P (bring n items s) := by
  unfold Machine.bring
  dsimp only
  split
  · exact h.latch _ (h.line _ p)
  · exact h.line _ p

theorem matchEffects (h : LineMoves n P) (o : Nat) (e : CodeEntry) (p : P s) : P (matchEffects n o e s) := by
  unfold Machine.matchEffects
  dsimp only
  split <;> split
  · exact h.latch _ (h.latch _ (h.line _ p))
  · exact h.latch _ p
  · exact h.latch _ (h.line _ p)
  · exact p

theorem resolve (h : LineMoves n P) (c : Call) (f : Option Nat) (x : List Item) (p : P s) : P (resolve n c f x s) := by
  unfold Machine.resolve
  dsimp only
  refine h.bring _ (h.line _ ?_)
  split
  · exact h.matchEffects _ _ p
  · exact p

theorem screenSymbol (h : LineMoves n P) (sym : Symbol) (c : Call) (p : P s) : P (screenSymbol n sym c s) := by
  unfold Machine.screenSymbol
  dsimp only
  split
  · exact h.line _ p
  · exact h.resolve _ _ _ (h.line _ p)
  · exact h.resolve _ _ _ (h.line _ p)

theorem handSymbol (h : LineMoves n P) (sym : Symbol) (p : P s) : P (handSymbol n sym s) := by
  unfold Machine.handSymbol
  split
  · exact p
  · split
    · exact h.screenSymbol _ _ p
    · exact h.bring _ p

theorem handFlash (h : LineMoves n P) (p : P s) : P (handFlash n s) := by
  unfold Machine.handFlash
  split
  · exact p
  · split
    · exact h.resolve _ _ _ p
    · exact h.bring _ p

theorem handDialIdle (h : LineMoves n P) (p : P s) : P (handDialIdle n s) := by
  unfold Machine.handDialIdle
  split
  · exact p
  · exact h.resolve _ _ _ p

/-! ## The Dial Decoder -/

theorem becomeIdle (h : LineMoves n P) (p : P s) : P (becomeIdle n s) := by
  unfold Machine.becomeIdle
  split
  · exact p
  · exact h.line _ p

theorem clearCall (h : LineMoves n P) (d : Decoder) (p : P s) : P (clearCall n d s) := by
  unfold Machine.clearCall
  split
  · exact h.line _ (h.unbind _ _ p)
  all_goals exact h.line _ p

theorem hangUp (h : LineMoves n P) (p : P s) : P (hangUp n s) := h.becomeIdle (h.clearCall _ p)

theorem completeDigit (h : LineMoves n P) (c : Call) (p : P s) : P (completeDigit n c s) := by
  unfold Machine.completeDigit
  refine h.reportDigit _ ?_
  cases s.translate c with
  | symbol sym => exact h.handSymbol _ (h.line _ p)
  | ignore => exact h.line _ p
  | flash => exact h.handFlash (h.line _ p)
  | reject => exact h.latchReject _ (h.line _ p)

theorem pulseBreak (h : LineMoves n P) (f : DigitPhase) (c : Call) (d : Nat) (p : P s) : P (pulseBreak n f c d s) := by
  unfold Machine.pulseBreak
  dsimp only
  split
  · exact h.line _ p
  · split
    · exact h.line _ p
    · exact h.reportDigit _ (h.latchReject _ (h.line _ p))
  · exact h.line _ p

theorem indeterminateBreak (h : LineMoves n P) (f : DigitPhase) (c : Call) (p : P s) : P (indeterminateBreak n f c s) := by
  cases f with
  | indigit => exact h.reportDigit _ (h.latchReject _ (h.line _ p))
  | offhook => exact h.line _ (h.line _ p)
  | discard => exact h.line _ p

theorem flashBreak (h : LineMoves n P) (f : DigitPhase) (c : Call) (p : P s) : P (flashBreak n f c s).state := by
  cases f with
  | indigit => exact h.handFlash (h.completeDigit c p)
  | offhook => exact h.handFlash (h.line _ p)
  | discard => exact h.handFlash (h.line _ p)

theorem closeBreak (h : LineMoves n P) (f : DigitPhase) (c : Call) (d : Nat) (p : P s) : P (closeBreak n f c d s).state := by
  unfold Machine.closeBreak
  split
  · exact h.line _ (h.line _ p)
  · exact h.pulseBreak _ _ _ p
  · exact h.indeterminateBreak _ _ p
  · exact h.flashBreak _ _ p
  · exact h.hangUp p

theorem takeTransition (h : LineMoves n P) (now : LoopState) (d : Nat) (p : P s) : P (takeTransition n now d s).state := by
  unfold Machine.takeTransition
  split
  · exact h.line _ p
  · exact p
  · exact h.becomeIdle (h.line _ (h.line _ p))
  · exact p
  · exact p
  · unfold startBreak
    split <;> exact h.line _ p
  · exact p
  · exact h.closeBreak _ _ _ p
  · exact p

theorem takeTimers (h : LineMoves n P) (p : P s) : P (takeTimers n s).state := by
  unfold Machine.takeTimers
  split
  · exact h.line _ (h.bind _ _ p)
  · split
    · exact h.hangUp p
    · split
      · unfold digitEnd
        split
        · exact h.completeDigit _ p
        · exact h.line _ p
        · exact p
      · exact p

theorem laterSteps (h : LineMoves n P) {first : Taken} (p : P first.state) : P (laterSteps n first) := by
  unfold Machine.laterSteps
  dsimp only
  split
  · exact h.takeTimers p
  · unfold takeDialIdle
    split
    · exact h.handDialIdle (h.line _ (h.takeTimers p))
    · exact h.line _ (h.takeTimers p)

theorem loopSample (h : LineMoves n P) (l : Bool) (p : P s) : P (loopSample n l s) := by
  unfold Machine.loopSample consumeLoop
  generalize (s.line n).filter.takeLoop (s.profileOf n) l = x
  dsimp only
  split
  · refine h.laterSteps ?_
    cases x.2 with
    | nothing => exact h.line _ p
    | aborted => exact h.line _ (h.line _ p)
    | confirmed now d => exact h.takeTransition _ _ (h.line _ p)
  · split
    · exact h.becomeIdle (h.line _ p)
    · exact h.line _ p
  · exact h.line _ p

theorem faultSample (h : LineMoves n P) (g : Bool) (p : P s) : P (faultSample n g s) := by
  have exit_ : ∀ {t}, P t → P (exitFault n t) := fun {t} q => by
    unfold exitFault
    split
    · exact h.becomeIdle (h.line _ q)
    · exact q
  unfold Machine.faultSample
  dsimp only
  refine exit_ ?_
  split
  · unfold faultChanged enterFault
    split
    · split
      · exact h.clearCall _ (h.latch _ (h.line _ p))
      · exact h.latch _ (h.line _ p)
    · exact h.latch _ (h.line _ p)
  · exact h.line _ p

theorem arrival (h : LineMoves n P) (l g : Bool) (p : P s) : P (arrival n l g s) := h.faultSample g (h.loopSample l p)

theorem expiryArrival (h : LineMoves n P) (due : LineId → State → Bool) (p : P s) : P (atArrival s (expiryArrival due n s)) := by
  refine atArrival_keeps p ?_
  unfold Machine.expiryArrival
  split
  · exact h.arrival _ _ p
  · exact p

/-! ## The Tone Emitter -/

theorem takeIfFree (h : LineMoves n P) (p : P s) : P (takeIfFree n s) := by
  unfold Machine.takeIfFree takeItem takeFromQueue
  split
  · split
    · exact h.line _ p
    · split
      · exact p
      · exact h.line _ p
      · exact h.line _ p
  · exact p

theorem endGap (h : LineMoves n P) (p : P s) : P (endGap n s) := by
  unfold Machine.endGap
  dsimp only
  split
  · split
    · exact h.latch _ (h.line _ (h.line _ p))
    · exact h.line _ (h.line _ p)
  · exact h.line _ p

/-! ## Commands -/

/-- A command that takes an event of line `n` moves that line only. -/
theorem exec (h : LineMoves n P) {c : Instr} {t : State} (on : eventLine c = some n) (p : P s) (e : exec c s = .next t) : P t := by
  cases c <;> simp only [eventLine, Option.some.injEq, reduceCtorEq] at on <;> subst on
  case loopTransition n =>
    cases e
    refine atArrival_keeps p ?_
    split
    · exact h.arrival _ _ p
    · exact p
    · exact p
  case faultStateChange n =>
    cases e
    refine atArrival_keeps p ?_
    split
    · exact h.arrival _ _ p
    · exact p
  case seizeExpiry n => cases e; exact h.expiryArrival _ p
  case digitEndExpiry n => cases e; exact h.expiryArrival _ p
  case dialIdleExpiry n => cases e; exact h.expiryArrival _ p
  case clearExpiry n => cases e; exact h.expiryArrival _ p
  case qualityWindowEnd n r =>
    change execQualityWindowEnd n r s = .next t at e
    unfold execQualityWindowEnd at e
    split at e
    · cases e
      refine atArrival_keeps p ?_
      split
      · exact h.endWindow (h.line _ p)
      · exact p
    · cases e
  case firstWaitEnd n =>
    change execFirstWaitEnd n s = .next t at e
    unfold execFirstWaitEnd at e
    cases e
    split
    · split
      · exact h.line _ p
      · exact p
    · exact p
  case emitterTakeItem n => cases e; exact h.takeIfFree p
  case burstEnd n =>
    change execBurstEnd n s = .next t at e
    unfold execBurstEnd at e
    cases e
    split
    · split
      · exact h.line _ p
      · exact p
    · exact p
  case gapEnd n =>
    change execGapEnd n s = .next t at e
    unfold execGapEnd at e
    cases e
    split
    · exact h.endGap p
    · exact p
  case flashOpenEnd n =>
    change execFlashOpenEnd n s = .next t at e
    unfold execFlashOpenEnd at e
    cases e
    split
    · exact h.line _ p
    · exact p
  case guardEnd n =>
    change execGuardEnd n s = .next t at e
    unfold execGuardEnd at e
    cases e
    split
    · exact h.line _ p
    · exact p
  case muteWaitLimit n =>
    cases e
    show P (if _ then _ else _)
    split
    · exact h.line _ p
    · exact p

end LineMoves

/-! ## What an event of one line can change -/

/-- Only line `n`, the bound counts of the sets and the attention-wanted flag differ, and the flag is not cleared. -/
structure OnlyLine (n : LineId) (s t : State) : Prop where
  rest : t = { s with lines := t.lines, xlat := t.xlat, code := t.code, attention := t.attention }
  other : ∀ m, m ≠ n → t.line m = s.line m
  xlat : ∀ k, (s.xlat.get k).sameButBound (t.xlat.get k)
  code : ∀ k, (s.code.get k).sameButBound (t.code.get k)
  attention : s.attention = true → t.attention = true

/-- A further state with the same rest. -/
theorem OnlyLine.rest_of {n : LineId} {s t u : State} (h : OnlyLine n s t)
    (e : u = { t with lines := u.lines, xlat := u.xlat, code := u.code, attention := u.attention }) :
    u = { s with lines := u.lines, xlat := u.xlat, code := u.code, attention := u.attention } := by
  have r := h.rest
  rw [r] at e
  exact e

theorem OnlyLine.refl (n : LineId) (s : State) : OnlyLine n s s :=
  ⟨rfl, fun _ _ => rfl, fun _ => sameButBound_refl _, fun _ => sameButBound_refl _, id⟩

theorem OnlyLine.modLine {n : LineId} {s t : State} (f : Line → Line) (h : OnlyLine n s t) : OnlyLine n s (t.modLine n f) :=
  ⟨h.rest_of rfl, fun m o => (line_modLine_other t f o).trans (h.other m o), h.xlat, h.code, h.attention⟩

theorem lineMoves_onlyLine (n : LineId) (s : State) : LineMoves n (OnlyLine n s) where
  line f h := h.modLine f
  mapped {t} f h :=
    have q := h.modLine f
    ⟨h.rest_of rfl, q.other, q.xlat, q.code, fun a => by simp [State.modLineMapped, h.attention a]⟩
  bind {t} p c h := by
    refine ⟨h.rest_of rfl, h.other, fun k => sameButBound_vmod (sameButBound_bind _) (h.xlat k), fun k => ?_, h.attention⟩
    cases c with
    | none => exact h.code k
    | some j => exact sameButBound_vmod (sameButBound_bind _) (h.code k)
  unbind {t} p c h := by
    refine ⟨h.rest_of rfl, h.other, fun k => sameButBound_vmod (sameButBound_unbind _) (h.xlat k), fun k => ?_, h.attention⟩
    cases c with
    | none => exact h.code k
    | some j => exact sameButBound_vmod (sameButBound_unbind _) (h.code k)

/-- Settles O10. -/
theorem lineEventsChangeOneLine : Obligations.LineEventsChangeOneLine := by
  intro c n s t on e
  obtain ⟨rest, other, xlat, code, attention⟩ := (lineMoves_onlyLine n s).exec on (OnlyLine.refl n s) e
  exact ⟨rest, other, xlat, code, attention⟩

/-! ## Requests -/

/-- The receiver, the kind of the message sent last and the model's own count are not among the updates of a request. -/
theorem closedRequest_receiver (s : State) :
    ClosedRequest fun t => t.receiver = s.receiver ∧ t.lastSent = s.lastSent ∧ t.raceCount = s.raceCount where
  on := lineClosed_of_free (fun _ p => p) (fun _ p => p) fun _ _ p => p
  small p e := by rw [e]; exact p
  config _ p _ := p
  profile _ _ _ p _ := p
  trans _ _ p _ _ := p
  code _ _ p _ _ := p
  tones _ p := p

/-- Settles O11. -/
theorem requestsLeaveThePorts : Obligations.RequestsLeaveThePorts := by
  rintro r s t rfl
  have ports := samePorts_answerRequest r s
  obtain ⟨receiver, lastSent, raceCount⟩ := (closedRequest_receiver s).answerRequest r ⟨rfl, rfl, rfl⟩
  exact ⟨ports.lu, ports.sd, ports.clock, ports.lossHold, ports.waiting, ports.paced, ports.lastVoice, ports.su, ports.ld, receiver,
    slot_answerRequest r s, replies_answerRequest r s, tx_answerRequest r s, lastSent, raceCount, ports.pending⟩

end Sys2Proof.Machine
end

section
/-! PROOF. O3, O5: the power-on state and the laws at it. O41: latching. -/

namespace Sys2Proof.Machine

/-! ## Power-on reset -/

@[simp] theorem line_reset (n : LineId) : State.reset.line n = Line.reset := by
  simp [State.line, State.reset, Vector.get_eq_getElem]

@[simp] theorem callOf_reset (n : LineId) : State.reset.callOf n = none := by
  rw [callOf_eq, line_reset]
  rfl

/-- Settles O3. -/
theorem powerOnResetRestoresTheParts : Obligations.PowerOnResetRestoresTheParts := by
  refine ⟨⟨fun _ => rfl, rfl, rfl, rfl, rfl, rfl, rfl, rfl, fun n => ?_⟩, fun n => ?_,
    rfl, rfl, rfl, rfl, rfl, rfl, rfl, rfl, rfl, rfl, rfl⟩
  · simp [State.reset, Vector.get_eq_getElem]
  · rw [line_reset]
    exact ⟨rfl, rfl, rfl, rfl, rfl, rfl, rfl, rfl, rfl⟩

theorem reset_modesLawful : State.reset.modesLawful := by
  intro n
  rw [line_reset]
  exact ⟨fun other => absurd rfl other, fun m pending => nomatch pending⟩

theorem reset_emissionsLawful : State.reset.emissionsLawful := by
  intro n _
  rw [line_reset]
  rfl

/-- R86: no set has a bound page at power-on. -/
theorem bound_reset_xlat (k : Fin 8) (g : Page) : (State.reset.xlat.get k).bound g = 0 := by
  simp only [State.reset, TransSet.resetAll, Vector.get_eq_getElem, Vector.getElem_set]
  split <;> cases g <;> simp [PagedSet.bound, PagedSet.cleared]

theorem bound_reset_code (k : Fin 4) (g : Page) : (State.reset.code.get k).bound g = 0 := by
  cases g <;> simp [State.reset, CodeSet.resetAll, Vector.get_eq_getElem, PagedSet.bound, PagedSet.cleared]

theorem reset_bindingsLawful : State.reset.bindingsLawful := by
  refine ⟨fun k g => ?_, fun k g => ?_⟩
  · simp [bound_reset_xlat, State.callsOnTrans]
  · simp [bound_reset_code, State.callsOnCode]

/-- Settles O5. -/
theorem lawsHoldAtReset : Obligations.LawsHoldAtReset :=
  ⟨reset_modesLawful, reset_emissionsLawful, reset_bindingsLawful, reset_configurationLawful, reset_clockLawful, fun _ => rfl,
    reset_queuesBounded⟩

/-! ## Latching -/

/-- R157, R160: attention is wanted when the line was outside the map and its latched event is enabled. -/
theorem latch_eq (n : LineId) (e : LineEvent) (s : State) :
    latch n e s = { (s.modLine n fun l => { l with events := l.events ||| e.bit }) with
      attention := s.attention ||
        ((s.line n).events &&& (s.line n).config.eventMask == 0 &&
          ((s.line n).events ||| e.bit) &&& (s.line n).config.eventMask != 0) } := by
  simp [latch, State.modLineMapped, Line.inMap, bne]

theorem latchReject_eq (n : LineId) (reason : RejectReason) (s : State) :
    latchReject n reason s = { (s.modLine n fun l => { l with events := l.events ||| 0x004, rejectReason := some reason }) with
      attention := s.attention ||
        ((s.line n).events &&& (s.line n).config.eventMask == 0 &&
          ((s.line n).events ||| 0x004) &&& (s.line n).config.eventMask != 0) } := by
  rw [latchReject, latch_eq, modLine_modLine, line_modLine_self]
  rfl

theorem latchPart_eq (e : PartEvent) (s : State) :
    latchPart e s = { s with
      partEvents := s.partEvents ||| e.bit
      attention := s.attention ||
        (s.partEvents &&& s.part.partMask == 0 && (s.partEvents ||| e.bit) &&& s.part.partMask != 0) } := by
  simp [latchPart, State.setPartFlags, State.partInMap, bne]

/-- Settles O41. -/
theorem latchingEntersTheMap : Obligations.LatchingEntersTheMap := by
  refine ⟨latch_eq, latchReject_eq, latchPart_eq, fun e => ?_, fun e => ?_, fun l => ?_, fun s => ?_⟩
  · cases e <;> rfl
  · cases e <;> rfl
  · simp [Line.inMap]
  · simp [State.partInMap]

end Sys2Proof.Machine
end

section
/-! PROOF. O13: the search for the marker. The window is a fold over the bits, and after 16 bits it holds just those. -/

namespace Sys2Proof.Machine

/-! ## The alignment machine of a direction -/

theorem setAligner_setAligner (s : State) (d : Direction) (a b : Aligner) : (s.setAligner d a).setAligner d b = s.setAligner d b := by
  cases d <;> rfl

theorem huntBits_of_hunt {d : Direction} {s : State} (h : (s.aligner d).state = .hunt) (bits : List Bool) :
    huntBits d bits s = s.setAligner d ((s.aligner d).hunt bits) := if_pos h

theorem huntBits_of_notHunt {d : Direction} {s : State} (h : (s.aligner d).state ≠ .hunt) (bits : List Bool) :
    huntBits d bits s = s := if_neg h

theorem exec_huntMarkerFound (d : Direction) (bits : List Bool) (s : State) :
    exec (.huntMarkerFound d bits) s = .next (huntBits d bits s) := rfl

/-- Outside HUNT nothing is searched, whatever the machine has become. -/
theorem huntBits_setAligner_notHunt {d : Direction} {a : Aligner} (h : a.state ≠ .hunt) (bits : List Bool) (s : State) :
    huntBits d bits (s.setAligner d a) = s.setAligner d a := huntBits_of_notHunt (by rwa [aligner_setAligner]) bits

theorem huntBits_setAligner_hunt {d : Direction} {a : Aligner} (h : a.state = .hunt) (bits : List Bool) (s : State) :
    huntBits d bits (s.setAligner d a) = s.setAligner d (a.hunt bits) := by
  rw [huntBits_of_hunt (by rwa [aligner_setAligner]), aligner_setAligner, setAligner_setAligner]

/-! ## The window -/

/-- The window with one more bit. -/
def shiftIn (w : SlotWord) (b : Bool) : SlotWord := (w <<< 1) ||| (BitVec.ofBool b).setWidth 16

/-- The window after a list of bits. -/
def windowAfter (w : SlotWord) (bits : List Bool) : SlotWord := bits.foldl shiftIn w

theorem shiftIn_eq (w : SlotWord) (b : Bool) : shiftIn w b = (w <<< 1) ||| (if b then 1 else 0) := by
  cases b <;> rfl

theorem getLsbD_shiftIn_zero (w : SlotWord) (b : Bool) : (shiftIn w b).getLsbD 0 = b := by
  cases b <;> simp [shiftIn_eq]

theorem getLsbD_shiftIn_succ (w : SlotWord) (b : Bool) {i : Nat} (h : i + 1 < 16) : (shiftIn w b).getLsbD (i + 1) = w.getLsbD i := by
  simp [shiftIn, h, BitVec.getLsbD_eq_getElem (show i < 16 by omega)]

/-- The bit examined `i` places before the last one stands at position `i` of the window. -/
theorem getLsbD_windowAfter (w : SlotWord) (bits : List Bool) {i : Nat} (h : i < 16) (seen : i < bits.length) :
    (windowAfter w bits).getLsbD i = bits.reverse[i]'(by simpa using seen) := by
  induction bits using List.reverseRecOn generalizing i with
  | nil => simp at seen
  | append_singleton bits b ih =>
    have last : windowAfter w (bits ++ [b]) = shiftIn (windowAfter w bits) b := by simp [windowAfter]
    rw [last]
    cases i with
    | zero => rw [getLsbD_shiftIn_zero]; simp
    | succ i =>
      rw [getLsbD_shiftIn_succ _ _ h, ih (by omega) (by simpa using seen)]
      simp

theorem length_slotBits (w : SlotWord) : (slotBits w).length = 16 := by simp [slotBits]

theorem getElem_slotBits (w : SlotWord) {i : Nat} (h : i < 16) : (slotBits w)[i]'(by simpa [slotBits] using h) = w.getLsbD (15 - i) := by
  simp [slotBits]

theorem slotBits_injective {v w : SlotWord} (h : slotBits v = slotBits w) : v = w := by
  refine BitVec.eq_of_getLsbD_eq fun i hi => ?_
  have e : (slotBits v)[15 - i]'(by simp [slotBits]; omega) = (slotBits w)[15 - i]'(by simp [slotBits]; omega) := by simp only [h]
  rw [getElem_slotBits v (by omega), getElem_slotBits w (by omega)] at e
  rwa [show 15 - (15 - i) = i by omega] at e

/-- After 16 bits or more the window holds the last 16 of them in order of time. -/
theorem slotBits_windowAfter (w : SlotWord) {bits : List Bool} (full : 16 ≤ bits.length) :
    slotBits (windowAfter w bits) = bits.drop (bits.length - 16) := by
  refine List.ext_getElem (by simp [length_slotBits]; omega) fun i hi hj => ?_
  have hi : i < 16 := by simpa [length_slotBits] using hi
  rw [getElem_slotBits _ hi, getLsbD_windowAfter w bits (by omega) (by omega), List.getElem_reverse, List.getElem_drop]
  congr 1
  omega

/-- After 16 bits or more the window equals the marker exactly when the marker's bits are the last ones. -/
theorem windowAfter_eq_marker (w : SlotWord) {bits : List Bool} (full : 16 ≤ bits.length) :
    windowAfter w bits = markerWord ↔ slotBits markerWord <:+ bits := by
  rw [List.suffix_iff_eq_drop, length_slotBits, ← slotBits_windowAfter w full]
  exact ⟨fun e => by rw [e], fun e => (slotBits_injective e).symm⟩

/-! ## The search -/

/-- Some window of the bits, full when its last bit has been examined, equals the marker. -/
def Aligner.meetsMarker (a : Aligner) (bits : List Bool) : Prop :=
  ∃ p, p <+: bits ∧ p ≠ [] ∧ 16 ≤ a.seen + p.length ∧ windowAfter a.window p = markerWord

theorem Aligner.hunt_cons (a : Aligner) (b : Bool) (bits : List Bool) : a.hunt (b :: bits) =
    if 15 ≤ a.seen ∧ shiftIn a.window b = markerWord then Aligner.confirming 1
    else Aligner.hunt { a with window := shiftIn a.window b, seen := min 16 (a.seen + 1) } bits := by
  have full : min 16 (a.seen + 1) = 16 ↔ 15 ≤ a.seen := by omega
  simp only [Aligner.hunt, full]
  rfl

/-- The first full window equal to the marker ends the search; without one every bit has been examined (R5). -/
theorem Aligner.hunt_spec (a : Aligner) (bits : List Bool) :
    (a.meetsMarker bits → a.hunt bits = Aligner.confirming 1) ∧
    (¬ a.meetsMarker bits → a.hunt bits =
      { a with window := windowAfter a.window bits, seen := if bits = [] then a.seen else min 16 (a.seen + bits.length) }) := by
  induction bits generalizing a with
  | nil =>
    refine ⟨fun ⟨p, pre, some_, _⟩ => absurd (List.prefix_nil.mp pre) some_, fun _ => rfl⟩
  | cons b bits ih =>
    rw [Aligner.hunt_cons]
    by_cases now : 15 ≤ a.seen ∧ shiftIn a.window b = markerWord
    · have meets : a.meetsMarker (b :: bits) := ⟨[b], ⟨bits, rfl⟩, by simp, by simp; omega, now.2⟩
      rw [if_pos now]
      exact ⟨fun _ => rfl, fun no => absurd meets no⟩
    · rw [if_neg now]
      have later : a.meetsMarker (b :: bits) ↔
          Aligner.meetsMarker { a with window := shiftIn a.window b, seen := min 16 (a.seen + 1) } bits := by
        constructor
        · rintro ⟨_ | ⟨c, p⟩, pre, some_, full, e⟩
          · exact absurd rfl some_
          · obtain ⟨rfl, tail⟩ := List.cons_prefix_cons.mp pre
            simp only [List.length_cons] at full
            refine ⟨p, tail, ?_, by simp only; omega, e⟩
            rintro rfl
            exact now ⟨by simp at full; omega, e⟩
        · rintro ⟨p, pre, some_, full, e⟩
          have := List.length_pos_iff.mpr some_
          simp only at full
          exact ⟨b :: p, List.cons_prefix_cons.mpr ⟨rfl, pre⟩, by simp, by simp; omega, e⟩
      obtain ⟨found, missed⟩ := ih { a with window := shiftIn a.window b, seen := min 16 (a.seen + 1) }
      refine ⟨fun m => found (later.mp m), fun m => (missed fun x => m (later.mpr x)).trans ?_⟩
      simp only [windowAfter, List.foldl_cons, reduceCtorEq, if_false, List.length_cons]
      congr 1
      split
      · simp [*]
      · omega

/-- With nothing examined yet, some window equals the marker exactly when its bits stand somewhere in the list. -/
theorem meetsMarker_iff_infix {a : Aligner} (fresh : a.seen = 0) (bits : List Bool) :
    a.meetsMarker bits ↔ slotBits markerWord <:+: bits := by
  rw [List.infix_iff_suffix_prefix]
  constructor
  · rintro ⟨p, pre, _, full, e⟩
    exact ⟨p, (windowAfter_eq_marker _ (by omega)).mp e, pre⟩
  · rintro ⟨p, suf, pre⟩
    have full : 16 ≤ p.length := length_slotBits markerWord ▸ suf.length_le
    exact ⟨p, pre, fun e => by simp [e] at full, by omega, (windowAfter_eq_marker _ full).mpr suf⟩

/-- One bit at a time comes to the same as the list (R5). -/
theorem huntBits_cons (d : Direction) (b : Bool) (bits : List Bool) (s : State) :
    huntBits d (b :: bits) s = huntBits d bits (huntBits d [b] s) := by
  by_cases h : (s.aligner d).state = .hunt
  · rw [huntBits_of_hunt h, huntBits_of_hunt h, Aligner.hunt_cons, Aligner.hunt_cons]
    split
    · exact (huntBits_setAligner_notHunt (by simp [Aligner.confirming]) bits s).symm
    · exact (huntBits_setAligner_hunt (by exact h) bits s).symm
  · rw [huntBits_of_notHunt h, huntBits_of_notHunt h, huntBits_of_notHunt h]

/-- Settles O13. -/
theorem huntFindsTheMarker : Obligations.HuntFindsTheMarker := by
  refine ⟨fun d s => ⟨fun h bits => ?_, fun h few b => ?_, fun h full b => ?_⟩,
    fun d s t b bits e => ?_, fun d s bits h fresh => ?_⟩
  · rw [exec_huntMarkerFound, huntBits_of_notHunt h]
  · rw [exec_huntMarkerFound, huntBits_of_hunt h, Aligner.hunt_cons, if_neg (by omega), ← shiftIn_eq]
    simp only [Aligner.hunt]
    rw [Nat.min_eq_right (by omega)]
  · rw [exec_huntMarkerFound, huntBits_of_hunt h, Aligner.hunt_cons, ← shiftIn_eq]
    simp only [full, true_and, Aligner.hunt, Nat.min_eq_left (show 16 ≤ (s.aligner d).seen + 1 by omega)]
    rfl
  · cases e
    rw [exec_huntMarkerFound, exec_huntMarkerFound, huntBits_cons]
  · rw [exec_huntMarkerFound, huntBits_of_hunt h]
    obtain ⟨found, missed⟩ := (s.aligner d).hunt_spec bits
    rw [meetsMarker_iff_infix fresh] at found missed
    refine ⟨fun m => by rw [found m]; rfl, fun m => ⟨windowAfter (s.aligner d).window bits, ?_⟩⟩
    rw [missed m]
    cases bits <;> simp [fresh]

end Sys2Proof.Machine
end

section
/-! PROOF. O14, O15, O16: the marker checks in CONFIRM and while a machine is up. -/

namespace Sys2Proof.Machine

/-! ## The marker check, case by case -/

theorem isHit_ofSlots (slots : Slots) : isHit (Frame.ofSlots slots) = true ↔ slots.get 0 = 0x6B2D := decide_eq_true_iff

theorem isMiss_ofSlots {slots : Slots} (h : slots.get 0 ≠ 0x6B2D) : isHit (Frame.ofSlots slots) = false :=
  Bool.eq_false_iff.mpr fun hit => h ((isHit_ofSlots slots).mp hit)

theorem exec_markerCheck {d : Direction} {s : State} (h : (s.aligner d).state ≠ .hunt) (slots : Slots) :
    exec (.markerCheck d slots) s =
      .next (huntBits d (slotsBits (slots.toList.drop 1)) (checkMarker d (Frame.ofSlots slots) s)) := if_neg h

/-- A check that does not enter HUNT searches nothing. -/
theorem exec_markerCheck_stays {d : Direction} {s t : State} (h : (s.aligner d).state ≠ .hunt) (slots : Slots)
    (e : checkMarker d (Frame.ofSlots slots) s = t) (stays : (t.aligner d).state ≠ .hunt) :
    exec (.markerCheck d slots) s = .next t := by
  rw [exec_markerCheck h, e, huntBits_of_notHunt stays]

theorem up_iff (a : Aligner) : a.up = true ↔ a.state = .locked ∨ a.state = .flywheel := by simp [Aligner.up]

theorem notHunt_of_up {a : Aligner} (h : a.up = true) : a.state ≠ .hunt := fun e => by simp [Aligner.up, e] at h

/-- R7: the marker check of a machine that is up. -/
theorem checkMarker_up {d : Direction} {s : State} (up : (s.aligner d).up = true) (f : Frame) : checkMarker d f s =
    if isHit f then deliver d f (s.setAligner d Aligner.lockedOn)
    else if lossDue d s then loseAlignment d s
    else deliver d f (s.setAligner d (Aligner.coasting ((s.aligner d).misses + 1))) := by
  rcases (up_iff _).mp up with h | h <;> simp only [checkMarker, h]

/-- R6: the marker check of a machine in CONFIRM. -/
theorem checkMarker_confirm {d : Direction} {s : State} (h : (s.aligner d).state = .confirm) (f : Frame) : checkMarker d f s =
    if isHit f then
      if lockDue d s then lockOn d f s else s.setAligner d (Aligner.confirming ((s.aligner d).confirmCount + 1))
    else s.setAligner d Aligner.hunting := by simp only [checkMarker, h]

/-- The octets of a delivered frame leave the ports alone. -/
theorem samePorts_receiveOctets (a b : Byte) (s : State) : SamePorts s (receiveOctet b (receiveOctet a s)) :=
  (closedQueue_samePorts s).receiveOctet b ((closedQueue_samePorts s).receiveOctet a (.refl s))

/-- Delivery leaves the alignment machine of its direction alone. -/
theorem aligner_deliver (d : Direction) (f : Frame) (s : State) : (deliver d f s).aligner d = s.aligner d := by
  cases d with
  | lu => rfl
  | sd => exact (samePorts_receiveOctets _ _ { s with paced := s.paced ++ [f.channels] }).sd

theorem aligner_lockOn (d : Direction) (f : Frame) (s : State) : (lockOn d f s).aligner d = Aligner.lockedOn := by
  unfold lockOn
  rw [aligner_deliver]
  cases d <;> rfl

theorem aligner_loseAlignment (d : Direction) (s : State) : (loseAlignment d s).aligner d = Aligner.hunting := by
  cases d <;> rfl

/-! ## CONFIRM -/

theorem exec_alignmentLock {d : Direction} {s : State} {slots : Slots} (hit : slots.get 0 = 0x6B2D) (due : lockDue d s = true) :
    exec (.alignmentLock d slots) s = .next (lockOn d (Frame.ofSlots slots) s) :=
  congrArg Host.Outcome.next (if_pos (by simp [due, (isHit_ofSlots slots).mpr hit]))

/-- R6: the MARKER_CHECK whose hit completes the confirmation is the ALIGNMENT_LOCK. -/
theorem exec_markerCheck_lock {d : Direction} {s : State} {slots : Slots} (h : (s.aligner d).state = .confirm)
    (hit : slots.get 0 = 0x6B2D) (due : lockDue d s = true) :
    exec (.markerCheck d slots) s = exec (.alignmentLock d slots) s := by
  rw [exec_alignmentLock hit due]
  refine exec_markerCheck_stays (by simp [h]) slots ?_ (by simp [aligner_lockOn, Aligner.lockedOn])
  rw [checkMarker_confirm h, if_pos ((isHit_ofSlots slots).mpr hit), if_pos due]

theorem lockDue_iff (d : Direction) (s : State) :
    lockDue d s = true ↔ (s.aligner d).state = .confirm ∧ s.part.backProt ≤ (s.aligner d).confirmCount + 1 := by
  simp [lockDue]

/-- Settles O14. -/
theorem confirmationCountsAndLocks : Obligations.ConfirmationCountsAndLocks := by
  refine ⟨fun d slots s h => ⟨fun hit below => ?_, fun miss => ?_⟩, fun slots s hit => ⟨fun h enough => ?_, fun h enough => ?_⟩⟩
  · refine exec_markerCheck_stays (by simp [h]) slots ?_ (by rw [aligner_setAligner]; simp)
    rw [checkMarker_confirm h, if_pos ((isHit_ofSlots slots).mpr hit), if_neg (by simp [lockDue_iff, h, below])]
    rfl
  · rw [exec_markerCheck (by simp [h]), checkMarker_confirm h, isMiss_ofSlots miss]
    exact congrArg _ (huntBits_setAligner_hunt rfl _ s)
  · have due : lockDue .lu s = true := (lockDue_iff .lu s).mpr ⟨h, enough⟩
    exact ⟨exec_alignmentLock hit due, exec_markerCheck_lock h hit due⟩
  · have due : lockDue .sd s = true := (lockDue_iff .sd s).mpr ⟨h, enough⟩
    exact ⟨exec_alignmentLock hit due, exec_markerCheck_lock h hit due⟩

/-! ## LOCKED and FLYWHEEL -/

theorem lossDue_iff (d : Direction) (s : State) :
    lossDue d s = true ↔ (s.aligner d).up = true ∧ s.part.fwdProt ≤ (s.aligner d).misses + 1 := by
  simp [lossDue]

/-- R7: a hit while up is delivered in LOCKED. -/
theorem exec_markerCheck_hit {d : Direction} {s : State} {slots : Slots} (up : (s.aligner d).up = true)
    (hit : slots.get 0 = 0x6B2D) : exec (.markerCheck d slots) s =
      .next (deliver d (Frame.ofSlots slots) (s.setAligner d Aligner.lockedOn)) := by
  refine exec_markerCheck_stays (notHunt_of_up up) slots ?_ (by simp [aligner_deliver, Aligner.lockedOn])
  rw [checkMarker_up up, if_pos ((isHit_ofSlots slots).mpr hit)]

/-- R7: a miss below FWD_PROT is delivered in FLYWHEEL. -/
theorem exec_markerCheck_miss {d : Direction} {s : State} {slots : Slots} (up : (s.aligner d).up = true)
    (miss : slots.get 0 ≠ 0x6B2D) (below : (s.aligner d).misses + 1 < s.part.fwdProt) : exec (.markerCheck d slots) s =
      .next (deliver d (Frame.ofSlots slots) (s.setAligner d (Aligner.coasting ((s.aligner d).misses + 1)))) := by
  refine exec_markerCheck_stays (notHunt_of_up up) slots ?_ (by simp [aligner_deliver, Aligner.coasting])
  rw [checkMarker_up up, isMiss_ofSlots miss, if_neg (by simp), if_neg (by simp [lossDue_iff, below])]

/-- Settles O15. -/
theorem framesAreDeliveredWhileUp : Obligations.FramesAreDeliveredWhileUp :=
  ⟨fun _ s up => ⟨fun hit => exec_markerCheck_hit (d := .lu) (s := s) up hit,
      fun miss below => exec_markerCheck_miss (d := .lu) (s := s) up miss below⟩,
    fun _ s up => ⟨fun hit => exec_markerCheck_hit (d := .sd) (s := s) up hit,
      fun miss below => exec_markerCheck_miss (d := .sd) (s := s) up miss below⟩⟩

/-! ## The loss -/

theorem exec_alignmentLoss {d : Direction} {s : State} (due : lossDue d s = true) :
    exec (.alignmentLoss d) s = .next (loseAlignment d s) := congrArg Host.Outcome.next (if_pos due)

/-- R7: the MARKER_CHECK whose miss reaches FWD_PROT loses alignment and then searches the bits after the missed marker. -/
theorem exec_markerCheck_loss {d : Direction} {s : State} {slots : Slots} (due : lossDue d s = true) (miss : slots.get 0 ≠ 0x6B2D) :
    exec (.markerCheck d slots) s = .next ((loseAlignment d s).setAligner d
      (Aligner.hunting.hunt (slotsBits (slots.toList.drop 1)))) := by
  have up := ((lossDue_iff d s).mp due).1
  rw [exec_markerCheck (notHunt_of_up up), checkMarker_up up, isMiss_ofSlots miss, if_neg (by simp), if_pos due,
    huntBits_of_hunt (by rw [aligner_loseAlignment]; rfl), aligner_loseAlignment]

/-- Settles O16. -/
theorem lossStartsTheHold : Obligations.LossStartsTheHold := by
  refine fun s => ⟨fun up enough => ?_, fun up enough => ?_⟩
  · have due : lossDue .lu s = true := (lossDue_iff .lu s).mpr ⟨up, enough⟩
    exact ⟨exec_alignmentLoss due, fun slots miss => exec_markerCheck_loss due miss⟩
  · have due : lossDue .sd s = true := (lossDue_iff .sd s).mpr ⟨up, enough⟩
    exact ⟨exec_alignmentLoss due, fun slots miss => exec_markerCheck_loss due miss⟩

end Sys2Proof.Machine
end

section
/-! PROOF. O22: a carried frame is one arrival of every line. O18: line time stands still where nothing is carried, and the loss hold
counts in every output frame. -/

namespace Sys2Proof.Machine

/-! ## The filter through an arrival -/

@[simp] theorem filter_latch (n : LineId) (e : LineEvent) (s : State) : ((latch n e s).line n).filter = (s.line n).filter := by
  simp [latch]

theorem filter_becomeIdle (n : LineId) (s : State) : ((becomeIdle n s).line n).filter = (s.line n).filter := by
  unfold becomeIdle
  split
  · rfl
  · simp [enterMode]

theorem filter_exitFault (n : LineId) (s : State) : ((exitFault n s).line n).filter = (s.line n).filter := by
  unfold exitFault
  split
  · rw [filter_becomeIdle]
    simp [setDecoder_eq]
  · rfl

theorem filter_faultChanged (n : LineId) (f : Bool) (s : State) : ((faultChanged n f s).line n).filter = (s.line n).filter := by
  unfold faultChanged enterFault
  split
  · split
    · rw [filter_clearCall, filter_latch]
    · rw [filter_latch]
  · rw [filter_latch]

/-- R40: the G half of an arrival leaves the filter as the G sample left it. -/
theorem filter_faultSample (n : LineId) (g : Bool) (s : State) :
    ((faultSample n g s).line n).filter = ((s.line n).filter.takeFault g).1 := by
  have set : ((s.setFilter n ((s.line n).filter.takeFault g).1).line n).filter = ((s.line n).filter.takeFault g).1 := by
    simp [setFilter_eq]
  unfold faultSample
  dsimp only
  rw [filter_exitFault]
  split
  · rw [filter_faultChanged, set]
  · exact set

theorem filter_arrival (n : LineId) (l g : Bool) (s : State) :
    ((arrival n l g s).line n).filter = (((s.line n).filter.takeLoop (s.profileOf n) l).1.takeFault g).1 := by
  rw [arrival, filter_faultSample, filter_loopSample]

/-! ## The carried frame -/

theorem carry_of_none {s : State} (h : s.waiting = none) : carry s = s := by simp [carry, h]

/-- What the ports hold after the waiting frame has been carried: its voice samples kept and the waiting place empty. -/
def State.taken (s : State) : State :=
  match s.waiting with
  | none => s
  | some cs => { s with waiting := none, lastVoice := vtab fun n => (cs.get n).voice }

theorem samePorts_taken_carry (s : State) : SamePorts s.taken (carry s) := samePorts_carry s

@[simp] theorem waiting_taken (s : State) : s.taken.waiting = none := by
  unfold State.taken
  split
  · assumption
  · rfl

/-- Each line takes its samples as if the other lines had not (R33, R41). -/
theorem line_carry {s : State} {cs : Channels} (h : s.waiting = some cs) (n : LineId) :
    (carry s).line n = (arrival n (cs.get n).a (cs.get n).b s).line n := by
  have start : SameFor n s { s with waiting := none, lastVoice := vtab fun n => (cs.get n).voice } :=
    ⟨rfl, rfl, rfl, fun _ => sameButBound_refl _, fun _ => sameButBound_refl _⟩
  have turns := rel_forLines (R := SameFor n) (f := fun n => arrival n (cs.get n).a (cs.get n).b) (n := n)
    (fun r => r.arrival _ _) (fun m other r => r.otherArrival other _ _)
    (s := { s with waiting := none, lastVoice := vtab fun n => (cs.get n).voice }) (.refl n _)
  rw [carry, h]
  exact turns.line.trans (start.arrival _ _).line

/-- Settles O22. -/
theorem carriedSamplesReachEveryFilter : Obligations.CarriedSamplesReachEveryFilter := by
  refine ⟨fun s cs h => ⟨?_, fun n => ?_⟩, fun s cs h n => line_carry h n, fun s h => carry_of_none h⟩
  · rw [(samePorts_taken_carry s).waiting, waiting_taken]
  · rw [line_carry h, filter_arrival]

/-! ## The ports through an output frame -/

theorem SamePorts.trans {s t u : State} (p : SamePorts s t) (q : SamePorts t u) : SamePorts s u :=
  p.of q.lu q.sd q.clock q.lossHold q.waiting q.paced q.lastVoice q.su q.ld q.pending

/-- The loss hold after one more output frame (R13). -/
def nextHold : Option LossHold → Option LossHold
  | none => none
  | some h => if h.length ≤ h.counted + 1 then none else some ⟨h.length, h.counted + 1⟩

theorem lossHoldDue_of_some {s : State} {h : LossHold} (e : s.lossHold = some h) :
    lossHoldDue s = decide (h.length ≤ h.counted + 1) := by simp [lossHoldDue, e]

theorem countLossHold_of_none {s : State} (e : s.lossHold = none) : countLossHold s = s := by
  simp only [countLossHold, lossHoldDue, e, Option.any_none, Option.map_none]
  rw [← e]
  rfl

theorem countLossHold_of_due {s : State} {h : LossHold} (e : s.lossHold = some h) (due : h.length ≤ h.counted + 1) :
    countLossHold s = expireLossHold s := by
  simp [countLossHold, lossHoldDue_of_some e, due]

theorem countLossHold_of_notDue {s : State} {h : LossHold} (e : s.lossHold = some h) (more : h.counted + 1 < h.length) :
    countLossHold s = { s with lossHold := some ⟨h.length, h.counted + 1⟩ } := by
  simp [countLossHold, lossHoldDue_of_some e, more, e]

theorem samePorts_nextHold_countLossHold (s : State) : SamePorts { s with lossHold := nextHold s.lossHold } (countLossHold s) := by
  have p := samePorts_countLossHold s
  rcases e : s.lossHold with _ | h
  · simpa [nextHold, e, lossHoldDue] using p
  · by_cases due : h.length ≤ h.counted + 1
    · simpa [nextHold, e, lossHoldDue, due] using p
    · simpa [nextHold, e, lossHoldDue, due] using p

theorem samePorts_countFirstWait (s : State) : SamePorts s (forLines countFirstWait s) :=
  samePorts_forLines (fun n _ p => ((closedQueue_samePorts s).on n).countFirstWait p) (.refl s)

/-- Ports that agree still agree after the loss hold has counted. -/
theorem SamePorts.nextHold {s t : State} (p : SamePorts s t) :
    SamePorts { s with lossHold := nextHold s.lossHold } { t with lossHold := nextHold t.lossHold } :=
  ⟨p.lu, p.sd, p.clock, congrArg Machine.nextHold p.lossHold, p.waiting, p.paced, p.lastVoice, p.su, p.ld, p.pending⟩

theorem SamePorts.withSu {s t : State} (p : SamePorts s t) (f : Frame) : SamePorts { s with su := f } { t with su := f } :=
  ⟨p.lu, p.sd, p.clock, p.lossHold, p.waiting, p.paced, p.lastVoice, rfl, p.ld, p.pending⟩

/-- What the ports hold after the lines' part of an output frame: the loss hold has counted and the waiting frame is carried. -/
def State.framed (s : State) : State := State.taken { s with lossHold := nextHold s.lossHold }

/-- Ports that agree still agree after the waiting frame has been taken. -/
theorem SamePorts.taken {s t : State} (p : SamePorts s t) : SamePorts s.taken t.taken := by
  unfold State.taken
  rw [p.waiting]
  split
  · exact p
  · exact ⟨p.lu, p.sd, p.clock, p.lossHold, rfl, p.paced, rfl, p.su, p.ld, p.pending⟩

/-- The lines' part of an output frame does to the ports what its loss hold and its waiting frame do (R10, R13). -/
theorem samePorts_lineFrames (s : State) : SamePorts s.framed (lineFrames s) := by
  have hold := (samePorts_countFirstWait s).nextHold.trans (samePorts_nextHold_countLossHold _)
  have carried : SamePorts s.framed (carry (countLossHold (forLines countFirstWait s))) := hold.taken.trans (samePorts_taken_carry _)
  unfold lineFrames
  dsimp only
  refine samePorts_forLines (fun n _ p => ((closedQueue_samePorts _).on n).emitterFrame p) ?_
  exact samePorts_forLines (fun n _ p => samePorts_settleRace s n p) carried

theorem samePorts_voiceFrame (s : State) : SamePorts s (forLines voiceFrame s) :=
  samePorts_forLines (fun _ _ p => p.of rfl rfl rfl rfl rfl rfl rfl rfl rfl rfl) (.refl s)

/-- The Voice Selectors and two octet positions leave the ports alone. -/
theorem samePorts_octets (s : State) : SamePorts s (sendOctet (sendOctet (forLines voiceFrame s)).2).2 :=
  ((samePorts_voiceFrame s).trans (samePorts_sendOctet _)).trans (samePorts_sendOctet _)

theorem exec_outputFrame {s : State} (ticks : s.clock = .freeRunning ∨ s.paced ≠ []) :
    exec .outputFrame s = .next (outputFrame s) :=
  congrArg Host.Outcome.next (if_pos (by rcases ticks with h | h <;> simp [State.ticks, h]))

/-- R4: while SD paces and no SD frame waits, no output frame starts. -/
theorem exec_outputFrame_idle {s : State} (clock : s.clock = .sd) (paced : s.paced = []) : exec .outputFrame s = .next s :=
  congrArg Host.Outcome.next (if_neg (by simp [State.ticks, clock, paced]))

/-- What an output frame comes to, `v` being what the lines and their Voice Selectors leave (R139, R168). -/
theorem outputFrame_eq {s v : State} (e : v = forLines voiceFrame (lineFrames (formLD s))) : outputFrame s =
    { (sendOctet (sendOctet v).2).2 with
      su := ⟨markerWord, (sendOctet v).1, (sendOctet (sendOctet v).2).1, vtab v.suChannel⟩ } :=
  formSU_eq (lineFrames (formLD s)) v e

/-- An output frame does to the ports what the forming of the LD frame, the loss hold and the waiting frame do, and sends its SU frame. -/
theorem samePorts_outputFrame (s : State) : SamePorts { (formLD s).framed with su := (outputFrame s).su } (outputFrame s) := by
  have parts := (samePorts_lineFrames (formLD s)).trans (samePorts_octets (lineFrames (formLD s)))
  rw [outputFrame_eq rfl]
  exact parts.withSu _

theorem lossHold_framed (s : State) : s.framed.lossHold = nextHold s.lossHold := by
  unfold State.framed State.taken
  split <;> rfl

/-- R13: the loss hold after an output frame. -/
theorem lossHold_outputFrame (s : State) : (outputFrame s).lossHold = nextHold s.lossHold :=
  (samePorts_outputFrame s).lossHold.trans (lossHold_framed (formLD s))

/-! ## Line time -/

/-- What no turn of a line touches in the Management Channel. -/
theorem lineClosed_slot_tx (n : LineId) (s : State) : LineClosed n fun t => t.slot = s.slot ∧ t.tx = s.tx :=
  lineClosed_of_free (fun _ p => p) (fun _ p => p) (fun _ _ p => p) n

theorem slot_tx_countLossHold (s : State) : (countLossHold s).slot = s.slot ∧ (countLossHold s).tx = s.tx := by
  unfold countLossHold
  split
  · exact forLines_keeps (P := fun t => t.slot = s.slot ∧ t.tx = s.tx)
      (fun n _ p => (lineClosed_slot_tx n s).linkExpiry p) ⟨rfl, rfl⟩
  · exact ⟨rfl, rfl⟩

/-- The lines at the end of an output frame that carries no LU frame, executes no request and ends no SOFT-RESET reply: those that the loss
hold's count leaves, with what the emitters and the Voice Selectors do to them. -/
theorem lines_of_outputFrame {s t u : State} (ticks : s.clock = .freeRunning ∨ s.paced ≠ []) (waiting : s.waiting = none)
    (sx : ∀ rest, s.tx = some ⟨rest, true⟩ → 2 < rest.length) (e : exec .outputFrame s = .next t) (k : t.slot = s.slot)
    (hu : u = forLines countFirstWait (formLD s)) :
    FrameKeeps s u ∧ (∀ m, LineKeeps ((countLossHold u).line m) (t.line m)) ∧ t.lossHold = (countLossHold u).lossHold := by
  obtain ⟨slot, tx⟩ := slot_tx_countLossHold u
  have empty : u.waiting = none := by
    rw [hu]
    exact (samePorts_countFirstWait (formLD s)).waiting.trans waiting
  exact outputFrame_lines s t u ticks sx e k hu ⟨slot, tx, (samePorts_nextHold_countLossHold u).waiting.trans empty⟩

/-- A loss hold that is not due changes no line. -/
theorem line_countLossHold {s : State} (more : ∀ h, s.lossHold = some h → h.counted + 1 < h.length) (n : LineId) :
    (countLossHold s).line n = s.line n := by
  rcases e : s.lossHold with _ | h
  · rw [countLossHold_of_none e]
  · rw [countLossHold_of_notDue e (more h e)]
    rfl

/-- R11: an output frame that carries nothing and completes no loss hold moves no filter and no decoder. -/
theorem outputFrame_keeps_filter_decoder {s t : State} (waiting : s.waiting = none)
    (more : ∀ h, s.lossHold = some h → h.counted + 1 < h.length) (sx : ∀ rest, s.tx = some ⟨rest, true⟩ → 2 < rest.length)
    (e : exec .outputFrame s = .next t) (k : t.slot = s.slot) (n : LineId) :
    (t.line n).filter = (s.line n).filter ∧ (t.line n).decoder = (s.line n).decoder := by
  by_cases ticks : s.clock = .freeRunning ∨ s.paced ≠ []
  · obtain ⟨first, rest, _⟩ := lines_of_outputFrame ticks waiting sx e k rfl
    have hold := (samePorts_countFirstWait (formLD s)).lossHold
    have still := line_countLossHold (s := forLines countFirstWait (formLD s)) (fun h x => more h (hold.symm.trans x)) n
    have kept := rest n
    rw [still] at kept
    exact ⟨kept.filter.trans (first.line n).filter, kept.decoder.trans (first.line n).decoder⟩
  · have idle : exec .outputFrame s = .next s := by
      refine exec_outputFrame_idle ?_ (by simpa using fun h => ticks (.inr h))
      cases c : s.clock with
      | freeRunning => exact absurd (.inl c) ticks
      | sd => rfl
    cases idle.symm.trans e
    exact ⟨rfl, rfl⟩

/-- R43, R48, R69: while LU is not up the line-time rows change nothing. -/
theorem lineEvents_of_notUp {s : State} (down : s.lu.up = false) (n : LineId) :
    exec (.loopTransition n) s = .next s ∧ exec (.faultStateChange n) s = .next s ∧ exec (.seizeExpiry n) s = .next s ∧
    exec (.digitEndExpiry n) s = .next s ∧ exec (.dialIdleExpiry n) s = .next s ∧ exec (.clearExpiry n) s = .next s ∧
    ∀ r, r.wf = true → exec (.qualityWindowEnd n r) s = .next s :=
  have still (t : State) := congrArg Host.Outcome.next (atArrival_of_notUp down t)
  ⟨still _, still _, still _, still _, still _, still _, fun _ wf => (if_pos wf).trans (still _)⟩

/-- Settles O18. -/
theorem lineTimeStandsStill : Obligations.LineTimeStandsStill := by
  refine ⟨fun s t waiting more sx e k n => outputFrame_keeps_filter_decoder waiting more sx e k n,
    fun s down n => lineEvents_of_notUp down n, fun s ticks => ⟨outputFrame s, exec_outputFrame ticks, fun none_ => ?_, fun h some_ => ?_⟩⟩
  · rw [lossHold_outputFrame, none_]
    rfl
  · rw [lossHold_outputFrame, some_]
    rfl

end Sys2Proof.Machine
end

section
/-! PROOF. O21: the loss hold expiry, taken by itself and in the output frame that completes the hold. -/

namespace Sys2Proof.Machine

/-! ## One line's turn among the others -/

/-- Doing something to every line, seen from one of them: what holds before its turn, what its turn brings, and what the turns of the other
lines keep of both. -/
theorem forLines_turn {f : LineId → State → State} {n : LineId} {P Q : State → Prop} (before : ∀ {t} m, n ≠ m → P t → P (f m t))
    (own : ∀ {t}, P t → Q (f n t)) (after : ∀ {t} m, n ≠ m → Q t → Q (f m t)) {s : State} (p : P s) : Q (forLines f s) := by
  have rest : ∀ (ns : List LineId) {t : State}, n ∉ ns → Q t → Q (ns.foldl (fun t k => f k t) t) := by
    intro ns
    induction ns with
    | nil => exact fun _ q => q
    | cons k ns ih => exact fun no q => ih (fun x => no (.tail _ x)) (after k (fun e => no (e ▸ .head _)) q)
  have key : ∀ (ns : List LineId) {t : State}, ns.Nodup → n ∈ ns → P t → Q (ns.foldl (fun t k => f k t) t) := by
    intro ns
    induction ns with
    | nil => exact fun _ h => nomatch h
    | cons k ns ih =>
      intro t nd h p
      obtain ⟨new, nd⟩ := List.nodup_cons.mp nd
      by_cases e : n = k
      · subst e
        exact rest ns new (own p)
      · exact ih nd ((List.mem_cons.mp h).resolve_left e) (before k e p)
  exact key allLines nodup_allLines (mem_allLines n) p

/-- What is said of line `n` alone is kept by every update of another line. -/
theorem lineClosed_other {n m : LineId} (other : n ≠ m) (Q : Line → Prop) : LineClosed m fun t => Q (t.line n) where
  attention _ q := q
  line _ q _ := by rwa [line_modLine_other _ _ other]
  filter _ q _ := by rwa [line_modLine_other _ _ other]
  opening {t} q _ := by
    rw [openCall, line_modLine_other _ _ other]
    exact q
  clear {t} d q _ _ := by
    unfold clearCall
    split
    · rw [line_modLine_other _ _ other]
      exact q
    all_goals
      rw [setDecoder_eq, line_modLine_other _ _ other]
      exact q

/-! ## The lines that a clear, a latch and a taking of the pending mode leave -/

theorem line_clearCall (n : LineId) (d : Decoder) (s : State) : (clearCall n d s).line n =
    { s.line n with
      decoder := d
      emission := if (s.line n).decoder.call.isSome then Emission.idle else (s.line n).emission } := by
  unfold clearCall
  split <;> simp [*, setDecoder_eq, Decoder.call]

theorem line_latch (n : LineId) (e : LineEvent) (s : State) :
    (latch n e s).line n = { s.line n with events := (s.line n).events ||| e.bit } := by simp [latch]

/-- R28: a decoder in IDLE whose line takes its pending mode. -/
theorem line_becomeIdle {n : LineId} {s : State} (idle : (s.line n).decoder = .idle) : (becomeIdle n s).line n =
    { s.line n with
      config := (s.line n).config.taken
      decoder := if (s.line n).config.pendingMode = some .convert ∧ (s.line n).filter.fault = true then .fault else .idle } := by
  unfold becomeIdle
  split
  · rename_i none_
    simp [none_, taken_of_none none_, ← idle]
  · rename_i m some_
    simp [enterMode, some_, LineConfig.taken]

/-! ## One line at the loss hold expiry -/

/-- What the loss hold expiry leaves of a line (R14, R15). -/
structure Expired (l l' : Line) : Prop where
  filter : l'.filter = ⟨.opened, 0, 0, l.filter.fault, 0⟩
  emission : l'.emission = Emission.idle
  call : l'.decoder.call = none
  fault : l.decoder = .fault → l'.decoder = .fault ∧ l'.config = l.config
  other : l.decoder ≠ .fault → l'.config.pendingMode = none ∧ l'.config.mode = l.config.pendingMode.getD l.config.mode ∧
    l'.decoder = if l.config.pendingMode = some .convert ∧ l.filter.fault = true then .fault else .idle
  events : l'.events = if l.decoder.call.isSome then l.events ||| 0x100 else l.events
  quality : l'.quality = l.quality
  capture : l'.capture = l.capture

/-- The line after the clear, the filter reset and LINK-CLEAR, before it takes its pending mode (R14). -/
def Line.unlinked (l : Line) : Line :=
  { l with
    decoder := if l.decoder = .fault then .fault else .idle
    emission := if l.decoder.call.isSome then Emission.idle else l.emission
    filter := l.filter.linkReset
    events := if l.decoder.call.isSome then l.events ||| 0x100 else l.events }

/-- The line takes its pending mode unless its decoder is in FAULT or it is PARKED (R14). -/
theorem line_linkExpiry (n : LineId) (s : State) : ∃ u, u.line n = (s.line n).unlinked ∧
    linkExpiry n s = match (s.line n).config.mode with
      | .convert => if (s.line n).unlinked.decoder = .idle then becomeIdle n u else u
      | .pass => becomeIdle n u
      | .parked => u := by
  refine ⟨_, ?_, rfl⟩
  split <;> simp [*, line_latch, line_clearCall, setFilter_eq, Line.unlinked, LineEvent.bit]

/-- A line that holds to the laws of its mode expires as R14 says. -/
theorem expired_linkExpiry {n : LineId} {s : State}
    (mode : (s.line n).config.mode ≠ .convert → (s.line n).decoder = .idle)
    (pending : ∀ m, (s.line n).config.pendingMode = some m → (s.line n).config.mode ≠ .parked)
    (emission : (s.line n).decoder.call = none → (s.line n).emission = Emission.idle) :
    Expired (s.line n) ((linkExpiry n s).line n) := by
  obtain ⟨u, hu, e⟩ := line_linkExpiry n s
  have quiet : (s.line n).unlinked.emission = Emission.idle := by
    cases c : (s.line n).decoder.call with
    | none => simp [Line.unlinked, c, emission c]
    | some _ => simp [Line.unlinked, c]
  by_cases fault : (s.line n).decoder = .fault
  · have convert : (s.line n).config.mode = .convert := by
      by_contra no
      rw [mode no] at fault
      cases fault
    rw [e, convert]
    simp only [Line.unlinked, fault, if_true, reduceCtorEq, if_false]
    rw [hu]
    exact ⟨rfl, quiet, by simp [Line.unlinked, fault, Decoder.call], fun _ => ⟨by simp [Line.unlinked, fault], rfl⟩,
      fun no => absurd fault no, rfl, rfl, rfl⟩
  · have idle : (s.line n).unlinked.decoder = .idle := if_neg fault
    have taken : (linkExpiry n s).line n =
        { (s.line n).unlinked with
          config := (s.line n).config.taken
          decoder := if (s.line n).config.pendingMode = some .convert ∧ (s.line n).filter.fault = true then .fault else .idle } := by
      have become := line_becomeIdle (n := n) (s := u) (by rw [hu, idle])
      rw [hu] at become
      rw [e]
      cases m : (s.line n).config.mode with
      | convert => simp only [idle, if_true]; exact become
      | pass => exact become
      | parked =>
        have none_ : (s.line n).config.pendingMode = none := by
          cases p : (s.line n).config.pendingMode with
          | none => rfl
          | some x => exact absurd m (pending x p)
        simp only [none_, taken_of_none none_, reduceCtorEq, false_and, if_false]
        rw [hu, ← idle]
        rfl
    rw [taken]
    refine ⟨rfl, quiet, ?_, fun yes => absurd yes fault, fun _ => ⟨rfl, rfl, rfl⟩, rfl, rfl, rfl⟩
    dsimp only
    split <;> rfl

/-! ## The expiry on every line -/

/-- What the expiry leaves of a line depends on that line alone. -/
theorem expired_expireLossHold {s : State} (modes : s.modesLawful) (emissions : s.emissionsLawful) (n : LineId) :
    Expired (s.line n) ((expireLossHold s).line n) := by
  obtain ⟨mode, pending⟩ := modes n
  refine forLines_turn (P := fun t => t.line n = s.line n) (Q := fun t => Expired (s.line n) (t.line n))
    (fun m other p => (lineClosed_other other (· = s.line n)).linkExpiry p) (fun {t} p => ?_)
    (fun m other q => (lineClosed_other other (Expired (s.line n))).linkExpiry q) rfl
  have own := expired_linkExpiry (n := n) (s := t) (by rw [p]; exact mode) (by rw [p]; exact fun x h => (pending x h).2.2)
    (by rw [p]; exact emissions n)
  rwa [p] at own

/-- The expiry ends the hold and leaves the part configuration and the part flags alone. -/
theorem expireLossHold_part (s : State) :
    (expireLossHold s).lossHold = none ∧ (expireLossHold s).part = s.part ∧ (expireLossHold s).partEvents = s.partEvents := by
  have free (n : LineId) : LineClosed n fun t => t.lossHold = none ∧ t.part = s.part ∧ t.partEvents = s.partEvents :=
    lineClosed_of_free (fun _ p => p) (fun _ p => p) (fun _ _ p => p) n
  exact forLines_keeps (P := fun t => t.lossHold = none ∧ t.part = s.part ∧ t.partEvents = s.partEvents)
    (fun n _ p => (free n).linkExpiry p) ⟨rfl, rfl, rfl⟩

theorem exec_lossHoldExpiry {s : State} (due : lossHoldDue s = true) : exec .lossHoldExpiry s = .next (expireLossHold s) :=
  congrArg Host.Outcome.next (if_pos due)

theorem exec_lossHoldExpiry_notDue {s : State} (early : lossHoldDue s = false) : exec .lossHoldExpiry s = .next s :=
  congrArg Host.Outcome.next (if_neg (by simp [early]))

/-- FIRST_WAIT and the LD frame leave the laws of modes and emissions standing. -/
theorem FrameKeeps.modesLawful {s t : State} (h : FrameKeeps s t) (modes : s.modesLawful) : t.modesLawful := by
  intro n
  rw [(h.line n).config, (h.line n).decoder]
  exact modes n

theorem FrameKeeps.emissionsLawful {s t : State} (h : FrameKeeps s t) (emissions : s.emissionsLawful) : t.emissionsLawful := by
  intro n none_
  rw [callOf_eq, (h.line n).decoder] at none_
  exact (h.line n).idle (emissions n none_)

theorem bits_kept {a b x : LineEventSet} (kept : (a ||| x) &&& b = a ||| x) (set : x ≠ 0) : b &&& x ≠ 0 := by
  intro clear
  apply set
  have low : (a ||| x) &&& x = x := by
    ext i hi
    simp
    tauto
  rw [← kept, BitVec.and_assoc, clear] at low
  simpa using low.symm

/-- FIRST_WAIT counts one output frame on every line (R128). -/
theorem line_countFirstWait (s : State) (n : LineId) : (forLines countFirstWait s).line n =
    { s.line n with emission := { (s.line n).emission with firstWait := lessFirstWait (s.line n).emission.firstWait } } :=
  line_forLines (g := fun _ l => { l with emission := { l.emission with firstWait := lessFirstWait l.emission.firstWait } })
    (fun n s => line_modLine_self s n _) (fun _ _ s other => line_modLine_other s _ other) s n

/-- What an output frame that completes a loss hold leaves of a line: the expiry, and what the emitters and the Voice Selectors do after it
(R13, R14). -/
theorem outputFrame_expires {s t : State} {h : LossHold} (ticks : s.clock = .freeRunning ∨ s.paced ≠ []) (waiting : s.waiting = none)
    (hold : s.lossHold = some h) (due : h.length ≤ h.counted + 1) (sx : ∀ rest, s.tx = some ⟨rest, true⟩ → 2 < rest.length)
    (modes : s.modesLawful) (emissions : s.emissionsLawful) (e : exec .outputFrame s = .next t) (k : t.slot = s.slot) :
    t.lossHold = none ∧ ∀ n, ∃ l, Expired (s.line n) l ∧ LineKeeps l (t.line n) := by
  obtain ⟨first, rest, ends⟩ := lines_of_outputFrame ticks waiting sx e k rfl
  have waited := line_countFirstWait (formLD s)
  generalize forLines countFirstWait (formLD s) = u at first rest ends waited
  rw [countLossHold_of_due (first.hold.trans hold) due] at rest ends
  refine ⟨ends.trans (expireLossHold_part u).1, fun n => ⟨_, ?_, rest n⟩⟩
  have expired := expired_expireLossHold (first.modesLawful modes) (first.emissionsLawful emissions) n
  rw [waited n] at expired
  exact ⟨expired.filter, expired.emission, expired.call, expired.fault, expired.other, expired.events, expired.quality,
    expired.capture⟩

/-- Settles O21. -/
theorem lossHoldExpiryActs : Obligations.LossHoldExpiryActs := by
  refine ⟨fun s h hold due modes emissions => ?_, fun s => ⟨fun none_ => countLossHold_of_none none_,
      fun h hold => ⟨fun due => ?_, fun more => ?_⟩⟩,
    fun s u ticks hu => ?_, fun s t h ticks waiting hold due sx modes emissions e k => ?_⟩
  · obtain ⟨ended, part, partEvents⟩ := expireLossHold_part s
    refine ⟨_, exec_lossHoldExpiry (by simp [lossHoldDue_of_some hold, due]), ended, part, partEvents, fun n => ?_⟩
    have x := expired_expireLossHold modes emissions n
    exact ⟨x.filter, x.emission, x.call, x.fault, x.other, x.events, x.quality, x.capture⟩
  · rw [exec_lossHoldExpiry (by simp [lossHoldDue_of_some hold, due]), countLossHold_of_due hold due]
  · exact ⟨countLossHold_of_notDue hold more, exec_lossHoldExpiry_notDue (by simp [lossHoldDue_of_some hold, more])⟩
  · subst hu
    exact exec_outputFrame ticks
  · obtain ⟨ended, lines⟩ := outputFrame_expires ticks waiting hold due sx modes emissions e k
    refine ⟨ended, fun n => ?_⟩
    obtain ⟨l, x, keeps⟩ := lines n
    rw [callOf_eq, callOf_eq, keeps.filter, keeps.decoder, keeps.config, keeps.quality, keeps.capture]
    refine ⟨x.filter, keeps.idle x.emission, x.call, x.fault, x.other, fun open_ => ?_, x.quality, x.capture⟩
    refine bits_kept (a := (s.line n).events) ?_ (by decide)
    have kept := keeps.events
    rwa [x.events, if_pos open_] at kept

end Sys2Proof.Machine
end

section
/-! PROOF. O17: the output frame as a whole. The lines' part is followed from one line: its gap's end may be settled once, and then its
emitter takes the frame, which changes its emission and adds event flags. -/

namespace Sys2Proof.Machine

/-! ## The emitters -/

/-- The second state agrees with the first in all that the emitter of line `n` depends on, and has the event flags `x` of it added. -/
structure SameEmitter (n : LineId) (x : LineEventSet) (s t : State) : Prop where
  line : t.line n = { s.line n with events := (s.line n).events ||| x }
  profiles : t.profiles = s.profiles
  tones : t.tones = s.tones

namespace SameEmitter

variable {n : LineId} {x : LineEventSet} {s t : State}

theorem refl (n : LineId) (s : State) : SameEmitter n 0 s s := ⟨by simp, rfl, rfl⟩

theorem emission (h : SameEmitter n x s t) : (t.line n).emission = (s.line n).emission := by rw [h.line]

theorem profileOf (h : SameEmitter n x s t) : t.profileOf n = s.profileOf n := by
  simp only [State.profileOf, h.profiles, h.line]

theorem burstOf (h : SameEmitter n x s t) (sym : Symbol) : t.burstOf n sym = s.burstOf n sym := by
  simp only [State.burstOf, h.profileOf, h.tones]

theorem modEmission (h : SameEmitter n x s t) (f : Emission → Emission) : SameEmitter n x (s.modEmission n f) (t.modEmission n f) :=
  ⟨by simp only [modEmission_eq, line_modLine_self, h.line], h.profiles, h.tones⟩

theorem setEmitter (h : SameEmitter n x s t) (e : EmitterState) : SameEmitter n x (s.setEmitter n e) (t.setEmitter n e) :=
  h.modEmission _

theorem latch (h : SameEmitter n x s t) (e : LineEvent) : SameEmitter n x (latch n e s) (latch n e t) :=
  ⟨by simp only [line_latch, h.line, BitVec.or_assoc, BitVec.or_comm x], h.profiles, h.tones⟩

theorem takeIfFree (h : SameEmitter n x s t) : SameEmitter n x (takeIfFree n s) (takeIfFree n t) := by
  simp only [Machine.takeIfFree, takeItem, takeFromQueue, h.emission, h.burstOf, h.profileOf]
  split
  · split
    · exact h.modEmission _
    · split
      · exact h
      · exact h.modEmission _
      · exact h.modEmission _
  · exact h

theorem endGap (h : SameEmitter n x s t) : SameEmitter n x (endGap n s) (endGap n t) := by
  have quiet : SameEmitter n x (s.setEmitter n .quiet) (t.setEmitter n .quiet) := h.setEmitter _
  simp only [Machine.endGap, h.emission]
  split
  · split
    · exact (quiet.modEmission _).latch _
    · exact quiet.modEmission _
  · exact quiet

/-- The emitter's output frame is the same whatever event flags the line holds, and loses none of them (R123 to R126). -/
theorem emitterFrame (h : SameEmitter n x s t) : SameEmitter n x (emitterFrame n s) (emitterFrame n t) := by
  simp only [Machine.emitterFrame, h.emission]
  split
  · exact h.takeIfFree
  · split
    · exact h.setEmitter _
    · exact h.setEmitter _
  · split
    · exact h.endGap.takeIfFree
    · exact h.setEmitter _
  · split
    · exact h.setEmitter _
    · exact h.setEmitter _
  · split
    · exact SameEmitter.takeIfFree (h.setEmitter .quiet)
    · exact h.setEmitter _

/-- What the emitter of line `n` depends on is kept by every update of another line. -/
theorem lineClosed {m : LineId} (other : n ≠ m) (x : LineEventSet) (s : State) : LineClosed m (SameEmitter n x s) where
  attention _ p := ⟨p.line, p.profiles, p.tones⟩
  line _ p _ := ⟨(line_modLine_other _ _ other).trans p.line, p.profiles, p.tones⟩
  filter _ p _ := ⟨(line_modLine_other _ _ other).trans p.line, p.profiles, p.tones⟩
  opening {t} p _ := ⟨(line_modLine_other (t.bindPages _ _) _ other).trans p.line, p.profiles, p.tones⟩
  clear {t} d p _ _ := by
    unfold clearCall
    split
    · exact ⟨(line_modLine_other (t.unbindPages _ _) _ other).trans p.line, p.profiles, p.tones⟩
    all_goals exact ⟨(line_modLine_other _ _ other).trans p.line, p.profiles, p.tones⟩

/-- Every emitter's output frame, seen from line `n` (R123). -/
theorem emitterFrames (h : SameEmitter n x s t) : SameEmitter n x (Machine.emitterFrame n s) (forLines Machine.emitterFrame t) :=
  forLines_turn (P := SameEmitter n x s) (Q := SameEmitter n x (Machine.emitterFrame n s))
    (fun _ other p => (lineClosed other x s).emitterFrame p) (fun p => p.emitterFrame)
    (fun _ other q => (lineClosed other x _).emitterFrame q) h

/-- The settling of another line's gap. -/
theorem settleRace_other {m : LineId} (other : n ≠ m) (before : State) (h : SameEmitter n x s t) :
    SameEmitter n x s (settleRace before m t) := by
  have counted : SameEmitter n x s { t with raceCount := t.raceCount + 1 } := ⟨h.line, h.profiles, h.tones⟩
  unfold settleRace
  split
  · dsimp only
    split
    · exact (lineClosed other x s).latch _ counted
    · exact counted
  · exact h

end SameEmitter

/-! ## The end of a gap and a clear in one frame -/

/-- INSERT-DONE as the i-th coincidence of R122 settles it. -/
def settledFlag (i : Nat) : LineEventSet := if Config.gapEndBeforeClear i then 0x080 else 0

/-- The flags that the settling of line `n` adds: none unless its gap's end meets a clear, and then as the free value says (R122). -/
def SettledWith (before after : State) (n : LineId) (x : LineEventSet) : Prop :=
  (¬ before.gapMeetsClear after n → x = 0) ∧ (before.gapMeetsClear after n → ∃ i, x = settledFlag i)

/-- The settling of the line's own gap. -/
theorem settleRace_own {before after t : State} {n : LineId} (h : SameEmitter n 0 after t) :
    ∃ x, SameEmitter n x after (settleRace before n t) ∧ SettledWith before after n x := by
  have same : t.callOf n = after.callOf n := by simp only [callOf_eq, h.line]
  have meets : (before.line n).emission.insertDue && (before.callOf n).isSome && (t.callOf n).isNone ↔ before.gapMeetsClear after n := by
    simp [State.gapMeetsClear, same, and_assoc]
  unfold settleRace
  split
  · rename_i c
    have meets := meets.mp c
    refine ⟨settledFlag t.raceCount, ?_, fun no => absurd meets no, fun _ => ⟨_, rfl⟩⟩
    have counted : SameEmitter n 0 after { t with raceCount := t.raceCount + 1 } := ⟨h.line, h.profiles, h.tones⟩
    generalize { t with raceCount := t.raceCount + 1 } = u at counted
    dsimp only [settledFlag]
    split
    · exact ⟨by rw [line_latch, counted.line]; simp [LineEvent.bit], counted.profiles, counted.tones⟩
    · exact counted
  · rename_i c
    exact ⟨0, h, fun _ => rfl, fun yes => absurd (meets.mpr yes) c⟩

/-- The settling of every line, seen from line `n`. -/
theorem settled_forLines (before after : State) (n : LineId) :
    ∃ x, SameEmitter n x after (forLines (settleRace before) after) ∧ SettledWith before after n x :=
  forLines_turn (P := SameEmitter n 0 after) (Q := fun t => ∃ x, SameEmitter n x after t ∧ SettledWith before after n x)
    (fun _ other p => p.settleRace_other other before) (fun p => settleRace_own p)
    (fun _ other ⟨x, q, settled⟩ => ⟨x, q.settleRace_other other before, settled⟩) (.refl n after)

/-- The lines after the lines' part of an output frame: what the emitters make of the carried state, and the flags settled (R122). -/
theorem line_lineFrames (s : State) (n : LineId) : ∃ x,
    (lineFrames s).line n =
      { (emitterFrame n (carry (countLossHold (forLines countFirstWait s)))).line n with
        events := ((emitterFrame n (carry (countLossHold (forLines countFirstWait s)))).line n).events ||| x } ∧
    SettledWith s (carry (countLossHold (forLines countFirstWait s))) n x := by
  obtain ⟨x, same, settled⟩ := settled_forLines s (carry (countLossHold (forLines countFirstWait s))) n
  exact ⟨x, same.emitterFrames.line, settled⟩

/-! ## The ports of the frame -/

theorem ld_framed (s : State) : s.framed.ld = s.ld := by
  unfold State.framed State.taken
  split <;> rfl

theorem paced_framed (s : State) : s.framed.paced = s.paced := by
  unfold State.framed State.taken
  split <;> rfl

theorem lastVoice_framed_of_none {s : State} (h : s.waiting = none) : s.framed.lastVoice = s.lastVoice := by
  simp [State.framed, State.taken, h]

theorem lastVoice_framed_of_some {s : State} {cs : Channels} (h : s.waiting = some cs) (n : LineId) :
    s.framed.lastVoice.get n = (cs.get n).voice := by
  simp [State.framed, State.taken, h]

/-- R3: the LD frame carries the SD frame that paces it while SD is up. -/
theorem ld_formLD_up {s : State} {cs : Channels} {rest : List Channels} (up : s.sd.up = true) (paced : s.paced = cs :: rest) :
    (formLD s).ld.channels = cs := by simp [formLD, up, paced]

/-- R3: without an SD frame to carry the LD frame carries idle channels. -/
theorem ld_formLD_idle {s : State} (h : s.sd.up = false ∨ s.paced = []) :
    (formLD s).ld.channels = Vector.replicate 48 ⟨0, false, false⟩ := by
  rcases h with h | h
  · simp [formLD, h, Frame.idle, Channel.zero]
  · simp [formLD, h, Frame.idle, Channel.zero]

/-- An output frame sends the SU frame of the state that the lines and the Voice Selectors leave, with the next two octets, and the LD frame
of the SD frame that paces it (R3, R10, R139, R168). -/
theorem outputFrame_forms {s w v : State} (ew : w = lineFrames (formLD s)) (ev : v = forLines voiceFrame w) :
    ∃ x y t, outputFrame s = t ∧ sendOctet v = (t.su.mgmtHigh, x) ∧ sendOctet x = (t.su.mgmtLow, y) ∧ t = { y with su := t.su } ∧
      (∀ n, t.su.channels.get n = ⟨v.suSample n, (w.line n).hook, (w.line n).faultMark⟩) ∧
      (∀ n, (t.line n).voice = (v.line n).voice) ∧ t.su.marker = 0x6B2D ∧ SamePorts { (formLD s).framed with su := t.su } t := by
  have ports := samePorts_outputFrame s
  have form := outputFrame_eq (s := s) (v := v) (by rw [ev, ew])
  generalize outputFrame s = t at ports form
  refine ⟨(sendOctet v).2, (sendOctet (sendOctet v).2).2, t, rfl, ?_, ?_, ?_, fun n => ?_, fun n => ?_, ?_, ports⟩
  · rw [form]
  · rw [form]
  · rw [form]
  · have voice : (v.line n).voice.shownHook = (w.line n).hook ∧ (v.line n).voice.shownFault = (w.line n).faultMark := by
      rw [ev, line_forLines_voiceFrame]
      exact ⟨rfl, rfl⟩
    rw [form]
    simp only [vget_vtab, State.suChannel, voice.1, voice.2]
  · have line : t.line n = (sendOctet (sendOctet v).2).2.line n := by rw [form]; rfl
    rw [line, voice_sendOctet, voice_sendOctet]
  · rw [form]

/-- Settles O17. -/
theorem outputFrameForms : Obligations.OutputFrameForms := by
  refine ⟨fun s u c w v ticks hu hc hw hv => ⟨fun n => ?_, fun n => ?_, fun n => ?_, ?_⟩,
    fun s clock paced => exec_outputFrame_idle clock paced⟩
  · rw [hu, line_countFirstWait]
    have less : ∀ e : Option Nat, lessFirstWait e = e.bind fun k => if k ≤ 1 then none else some (k - 1) := by
      rintro (_ | k) <;> rfl
    rw [less]
    rfl
  · obtain ⟨x, line, unsettled, settled⟩ := line_lineFrames (formLD s) n
    rw [← hu, ← hc] at line unsettled settled
    rw [← hw] at line
    refine ⟨fun no => ?_, fun yes => ?_⟩
    · rw [line, unsettled no]
      simp
    · obtain ⟨i, rfl⟩ := settled yes
      exact ⟨i, line⟩
  · rw [hv, line_forLines_voiceFrame]
  · obtain ⟨x, y, t, frame, high, low, rest, channels, voices, marker, ports⟩ := outputFrame_forms hw hv
    have ld : t.ld = (formLD s).ld := ports.ld.trans (ld_framed _)
    refine ⟨x, y, t, frame ▸ exec_outputFrame ticks, high, low, rest, channels, voices, marker, ?_, ?_, ?_, fun up cs more paced => ?_,
      fun idle => ?_, ports.paced.trans (paced_framed _), ports.waiting.trans (waiting_taken _), fun none_ => ?_, fun cs some_ n => ?_⟩
    · rw [ld]; rfl
    · rw [ld]; rfl
    · rw [ld]; rfl
    · rw [ld, ld_formLD_up up paced]
    · rw [ld, ld_formLD_idle idle]
    · exact ports.lastVoice.trans (lastVoice_framed_of_none none_)
    · rw [ports.lastVoice]
      exact lastVoice_framed_of_some (s := formLD s) some_ n

end Sys2Proof.Machine
end

section
/-! PROOF. O53, the layouts read back: frames, numbers, symbols and the records of chapter 12. -/

namespace Sys2Proof.Machine

/-! ## Slots -/

theorem getLsbD_toSlot (c : Channel) (i : Nat) :
    c.toSlot.getLsbD i = if i = 0 then c.b else if i = 1 then c.a else c.voice.getLsbD (i - 2) := by
  have bits : c.toSlot.getLsbD i = (c.voice ++ BitVec.ofBool c.a ++ BitVec.ofBool c.b).getLsbD i := rfl
  rw [bits, BitVec.getLsbD_append, BitVec.getLsbD_append]
  rcases i with _ | _ | i <;> simp

theorem getLsbD_appendOctets (a b : Byte) (i : Nat) :
    (a ++ b : SlotWord).getLsbD i = if i < 8 then b.getLsbD i else a.getLsbD (i - 8) := by
  have bits : (a ++ b : SlotWord).getLsbD i = (a ++ b).getLsbD i := rfl
  rw [bits, BitVec.getLsbD_append]

theorem ofSlot_toSlot (c : Channel) : Channel.ofSlot c.toSlot = c := by
  obtain ⟨voice, a, b⟩ := c
  simp only [Channel.ofSlot, getLsbD_toSlot, Channel.mk.injEq]
  refine ⟨BitVec.eq_of_getLsbD_eq fun i hi => ?_, rfl, rfl⟩
  simp [getLsbD_toSlot, hi, show 2 + i ≠ 1 by omega]

theorem toSlot_ofSlot (w : SlotWord) : (Channel.ofSlot w).toSlot = w := by
  refine BitVec.eq_of_getLsbD_eq fun i hi => ?_
  rw [getLsbD_toSlot]
  rcases i with _ | _ | i
  · rfl
  · rfl
  · simp [Channel.ofSlot, show i < 14 by omega, Nat.add_comm 2 i]

theorem append_extracts (w : SlotWord) : (w.extractLsb' 8 8 ++ w.extractLsb' 0 8 : SlotWord) = w := by
  refine BitVec.eq_of_getLsbD_eq fun i hi => ?_
  rw [getLsbD_appendOctets]
  split
  · simp [*]
  · simp [show i - 8 < 8 by omega, show 8 + (i - 8) = i by omega]

theorem extract_append_high (a b : Byte) : (a ++ b : SlotWord).extractLsb' 8 8 = a := by
  refine BitVec.eq_of_getLsbD_eq fun i hi => ?_
  simp [getLsbD_appendOctets, hi]

theorem extract_append_low (a b : Byte) : (a ++ b : SlotWord).extractLsb' 0 8 = b := by
  refine BitVec.eq_of_getLsbD_eq fun i hi => ?_
  simp [getLsbD_appendOctets, hi]

theorem vector_ext_get {α : Type} {size : Nat} {v w : Vector α size} (h : ∀ i, v.get i = w.get i) : v = w := by
  ext i hi
  exact h ⟨i, hi⟩

theorem get_toSlots_zero (f : Frame) : f.toSlots.get 0 = f.marker := by simp [Frame.toSlots]

theorem get_toSlots_one (f : Frame) : f.toSlots.get 1 = f.mgmtHigh ++ f.mgmtLow := by simp [Frame.toSlots]

theorem get_toSlots_line (f : Frame) (n : LineId) : f.toSlots.get ⟨n.val + 2, by omega⟩ = (f.channels.get n).toSlot := by
  simp [Frame.toSlots]

theorem frame_ofSlots_toSlots (f : Frame) : Frame.ofSlots f.toSlots = f := by
  obtain ⟨marker, high, low, channels⟩ := f
  simp only [Frame.ofSlots, Frame.mk.injEq, get_toSlots_zero, get_toSlots_one, get_toSlots_line, extract_append_high,
    extract_append_low, ofSlot_toSlot, true_and]
  exact vector_ext_get fun n => vget_vtab _ n

theorem frame_toSlots_ofSlots (w : Slots) : (Frame.ofSlots w).toSlots = w := by
  refine vector_ext_get fun i => ?_
  obtain ⟨_ | _ | i, hi⟩ := i
  · exact get_toSlots_zero _
  · exact (get_toSlots_one _).trans (append_extracts (w.get 1))
  · rw [get_toSlots_line (Frame.ofSlots w) ⟨i, by omega⟩]
    simp only [Frame.ofSlots, vget_vtab, toSlot_ofSlot]

/-! ## Numbers in octets -/

theorem toNat_octet (v : Nat) : (octet v).toNat = v % 256 := BitVec.toNat_ofNat v 8

theorem toNat_octet_of_lt {v : Nat} (h : v < 256) : (octet v).toNat = v := by rw [toNat_octet, Nat.mod_eq_of_lt h]

theorem number2_octets {v : Nat} (h : v < 65536) : number2 (octet (v / 256)) (octet v) = v := by
  simp only [number2, toNat_octet]
  omega

/-- A value whose range fits one octet. -/
theorem octet_inRange {lo hi v : Nat} (h : lo ≤ v ∧ v ≤ hi) (fits : hi < 256) : (octet v).toNat = v :=
  toNat_octet_of_lt (h.2.trans_lt fits)

/-- A value whose range fits two octets. -/
theorem octets2_inRange {lo hi v : Nat} (h : lo ≤ v ∧ v ≤ hi) (fits : hi < 65536) : number2 (octet (v / 256)) (octet v) = v :=
  number2_octets (h.2.trans_lt fits)

/-! ## Symbols in half-octets -/

theorem toNat_symbolPair (x y : Symbol) : (symbolPair x y).toNat = x.val * 16 + y.val := toNat_octet_of_lt (by omega)

theorem highSymbol_pair (x y : Symbol) : highSymbol (symbolPair x y) = x := by
  refine Fin.ext ?_
  rw [highSymbol, toNat_symbolPair, Fin.val_ofNat]
  omega

theorem lowSymbol_pair (x y : Symbol) : lowSymbol (symbolPair x y) = y := by
  refine Fin.ext ?_
  rw [lowSymbol, toNat_symbolPair, Fin.val_ofNat]
  omega

theorem length_symbolOctets (size : Nat) (xs : List Symbol) : (symbolOctets size xs).length = size := by simp [symbolOctets]

/-- The symbols of the half-octets are those of the list and then 0s. -/
theorem symbolsOf_symbolOctets (size : Nat) (xs : List Symbol) :
    symbolsOf (symbolOctets size xs) = (List.range (2 * size)).map fun i => xs.getD i 0 := by
  induction size with
  | zero => rfl
  | succ size ih =>
    have split_ : symbolOctets (size + 1) xs = symbolOctets size xs ++ [symbolPair (xs.getD (2 * size) 0) (xs.getD (2 * size + 1) 0)] := by
      simp [symbolOctets, List.range_succ]
    have apart : symbolsOf (symbolOctets (size + 1) xs) =
        symbolsOf (symbolOctets size xs) ++ [xs.getD (2 * size) 0, xs.getD (2 * size + 1) 0] := by
      rw [split_]
      simp [symbolsOf, highSymbol_pair, lowSymbol_pair]
    rw [apart, ih, show 2 * (size + 1) = 2 * size + 1 + 1 by omega, List.range_succ, List.range_succ]
    simp

theorem take_symbolsOf {size : Nat} {xs : List Symbol} (fit : xs.length ≤ 2 * size) :
    (symbolsOf (symbolOctets size xs)).take xs.length = xs := by
  rw [symbolsOf_symbolOctets]
  refine List.ext_getElem (by simp; omega) fun i hi hj => ?_
  simp [hj]

/-! ## Table entries -/

theorem length_tone_octets (t : ToneEntry) : t.octets.length = 8 := rfl

theorem toneEntryOf_octets {t : ToneEntry} (fLow : t.fLow < 65536) (fHigh : t.fHigh < 65536) (aLow : t.aLow < 65536)
    (aHigh : t.aHigh < 65536) : toneEntryOf t.octets = t := by
  obtain ⟨fl, fh, al, ah⟩ := t
  have same : toneEntryOf (ToneEntry.octets ⟨fl, fh, al, ah⟩) = ⟨number2 (octet (fl / 256)) (octet fl),
      number2 (octet (fh / 256)) (octet fh), number2 (octet (al / 256)) (octet al), number2 (octet (ah / 256)) (octet ah)⟩ := rfl
  rw [same, number2_octets fLow, number2_octets fHigh, number2_octets aLow, number2_octets aHigh]

/-- The first octet of a live code entry: END clear, the notify flag and the action (R100). -/
theorem head_octet (notify : Bool) (action : CodeAction) :
    (octet (0 + (if notify then 64 else 0) + actionCode (some action))).getLsbD 7 = false ∧
    (octet (0 + (if notify then 64 else 0) + actionCode (some action))).getLsbD 6 = notify ∧
    actionOfCode ((octet (0 + (if notify then 64 else 0) + actionCode (some action))).toNat % 4) = some action := by
  cases notify <;> cases action <;> decide

theorem length_code_octets (e : CodeEntry) : e.octets.length = 9 := by
  simp [CodeEntry.octets, length_symbolOctets]

/-- A live code entry reads back (R100). -/
theorem codeEntryOf_live {code replacement : List Symbol} (action : CodeAction) (notify : Bool)
    (some_ : 1 ≤ code.length) (short : code.length ≤ 6) (few : replacement.length ≤ 8) :
    codeEntryOf (CodeEntry.octets ⟨false, code, some action, notify, replacement⟩) =
      some ⟨false, code, some action, notify, replacement⟩ := by
  obtain ⟨endClear, notified, acted⟩ := head_octet notify action
  have lengths : (octet (code.length * 16 + replacement.length)).toNat = code.length * 16 + replacement.length :=
    toNat_octet_of_lt (by omega)
  have codeLength : (code.length * 16 + replacement.length) / 16 = code.length := by omega
  have replacementLength : (code.length * 16 + replacement.length) % 16 = replacement.length := by omega
  have codeOctets : (symbolOctets 3 code ++ symbolOctets 4 replacement).take 3 = symbolOctets 3 code :=
    List.take_left' (length_symbolOctets 3 code)
  have replacementOctets : ((symbolOctets 3 code ++ symbolOctets 4 replacement).drop 3).take 4 = symbolOctets 4 replacement := by
    rw [List.drop_left' (length_symbolOctets 3 code), List.take_of_length_le (by rw [length_symbolOctets])]
  have layout : CodeEntry.octets ⟨false, code, some action, notify, replacement⟩ =
      octet (0 + (if notify then 64 else 0) + actionCode (some action)) :: octet (code.length * 16 + replacement.length) ::
        (symbolOctets 3 code ++ symbolOctets 4 replacement) := by
    simp [CodeEntry.octets]
  rw [layout]
  generalize octet (0 + (if notify then 64 else 0) + actionCode (some action)) = head at endClear notified acted
  simp only [codeEntryOf, numAt, List.getD_cons_zero, List.getD_cons_succ, lengths, codeLength, replacementLength, endClear, acted,
    notified, List.drop_succ_cons, List.drop_zero, codeOctets, replacementOctets]
  rw [if_neg (by simp), if_neg (by omega), take_symbolsOf (by omega), take_symbolsOf (by omega)]

theorem codeEntryOf_octets {e : CodeEntry} (valid : e.valid) : codeEntryOf e.octets = some e := by
  rcases valid with rfl | ⟨live, ⟨some_, short⟩, acts, few⟩
  · decide
  · obtain ⟨_, code, _ | action, notify, replacement⟩ := e
    · cases acts
    · cases live
      exact codeEntryOf_live action notify some_ short few

/-! ## Profiles -/

theorem clamp_of_inRange {lo hi v : Nat} (h : lo ≤ v ∧ v ≤ hi) : clamp lo hi v = v := by
  unfold clamp
  rw [if_neg (by omega), if_neg (by omega)]

theorem codeSetOfCode_code (k : Option (Fin 4)) : codeSetOfCode (codeSetCode k).toNat = some k := by
  revert k
  decide

/-- The numbers that the record of a profile carries (12.4). -/
def Profile.wire (p : Profile) : ProfileWire where
  openProt := p.openProt
  closeProt := p.closeProt
  seizeMin := p.seizeMin
  pulseMin := p.pulseMin
  pulseMax := p.pulseMax
  flashMin := p.flashMin
  flashMax := p.flashMax
  endFirst := p.endFirst
  endMin := p.endMin
  endMax := p.endMax
  endMult := p.endMult
  endFixed := p.endFixed.toNat
  ratioMin := p.ratioMin
  ratioMax := p.ratioMax
  speedMin := p.speedMin
  speedMax := p.speedMax
  dialIdle := p.dialIdle
  xlatSet := p.xlatSet.val
  codeSet := (codeSetCode p.codeSet).toNat
  toneOn := p.toneOn
  toneGap := p.toneGap
  flashOpen := p.flashOpen
  flashGuard := p.flashGuard
  firstDelay := p.firstDelay

/-- The 38 octets of a profile record one by one (12.4). -/
theorem profile_octets (p : Profile) : p.octets =
    [octet p.openProt, octet p.closeProt, octet (p.seizeMin / 256), octet p.seizeMin, octet (p.pulseMin / 256), octet p.pulseMin,
      octet (p.pulseMax / 256), octet p.pulseMax, octet (p.flashMin / 256), octet p.flashMin, octet (p.flashMax / 256),
      octet p.flashMax, octet (p.endFirst / 256), octet p.endFirst, octet (p.endMin / 256), octet p.endMin, octet (p.endMax / 256),
      octet p.endMax, octet p.endMult, flagOctet p.endFixed, octet p.ratioMin, octet p.ratioMax, octet p.speedMin,
      octet p.speedMax, octet (p.dialIdle / 256), octet p.dialIdle, octet p.xlatSet.val, codeSetCode p.codeSet,
      octet (p.toneOn / 256), octet p.toneOn, octet (p.toneGap / 256), octet p.toneGap, octet (p.flashOpen / 256),
      octet p.flashOpen, octet (p.flashGuard / 256), octet p.flashGuard, octet (p.firstDelay / 256), octet p.firstDelay] := by
  simp only [Profile.octets, octets2, List.cons_append, List.nil_append]

/-- A profile in range fits the octets of its record. -/
theorem profileWire_ofOctets {p : Profile} (h : p.inRange) : ProfileWire.ofOctets p.octets = p.wire := by
  obtain ⟨openProt, closeProt, seizeMin, pulseMin, pulseMax, flashMin, flashMax, endFirst, endMin, endMax, endMult, ratioMin, ratioMax,
    speedMin, speedMax, dialIdle, toneOn, toneGap, flashOpen, flashGuard, firstDelay⟩ := h
  have endFixed : (flagOctet p.endFixed).toNat = p.endFixed.toNat := by cases p.endFixed <;> rfl
  have xlatSet : (octet p.xlatSet.val).toNat = p.xlatSet.val := toNat_octet_of_lt (p.xlatSet.isLt.trans (by decide))
  rw [profile_octets, ProfileWire.ofOctets, Profile.wire, ProfileWire.mk.injEq]
  simp only [numAt, num2At, List.getD_cons_zero, List.getD_cons_succ]
  exact ⟨octet_inRange openProt (by decide), octet_inRange closeProt (by decide), octets2_inRange seizeMin (by decide),
    octets2_inRange pulseMin (by decide), octets2_inRange pulseMax (by decide), octets2_inRange flashMin (by decide),
    octets2_inRange flashMax (by decide), octets2_inRange endFirst (by decide), octets2_inRange endMin (by decide),
    octets2_inRange endMax (by decide), octet_inRange endMult (by decide), endFixed, octet_inRange ratioMin (by decide),
    octet_inRange ratioMax (by decide), octet_inRange speedMin (by decide), octet_inRange speedMax (by decide),
    octets2_inRange dialIdle (by decide), xlatSet, trivial, octets2_inRange toneOn (by decide), octets2_inRange toneGap (by decide),
    octets2_inRange flashOpen (by decide), octets2_inRange flashGuard (by decide), octets2_inRange ⟨Nat.zero_le _,
    firstDelay⟩ (by decide)⟩

/-- Clamping leaves a profile in range alone. -/
theorem clamped_wire {p : Profile} (h : p.inRange) : p.wire.clamped = p.wire := by
  obtain ⟨openProt, closeProt, seizeMin, pulseMin, pulseMax, flashMin, flashMax, endFirst, endMin, endMax, endMult, ratioMin, ratioMax,
    speedMin, speedMax, dialIdle, toneOn, toneGap, flashOpen, flashGuard, firstDelay⟩ := h
  rw [ProfileWire.clamped, Profile.wire, ProfileWire.mk.injEq]
  exact ⟨clamp_of_inRange openProt, clamp_of_inRange closeProt, clamp_of_inRange seizeMin, clamp_of_inRange pulseMin,
    clamp_of_inRange pulseMax, clamp_of_inRange flashMin, clamp_of_inRange flashMax, clamp_of_inRange endFirst,
    clamp_of_inRange endMin, clamp_of_inRange endMax, clamp_of_inRange endMult,
    clamp_of_inRange ⟨Nat.zero_le _, Bool.toNat_le _⟩, clamp_of_inRange ratioMin, clamp_of_inRange ratioMax,
    clamp_of_inRange speedMin, clamp_of_inRange speedMax, clamp_of_inRange dialIdle,
    clamp_of_inRange ⟨Nat.zero_le _, Nat.le_of_lt_succ p.xlatSet.isLt⟩, rfl, clamp_of_inRange toneOn, clamp_of_inRange toneGap,
    clamp_of_inRange flashOpen, clamp_of_inRange flashGuard, clamp_of_inRange ⟨Nat.zero_le _, firstDelay⟩⟩

theorem toProfile_wire (p : Profile) : p.wire.toProfile p.codeSet = p := by
  have endFixed : decide (p.endFixed.toNat = 1) = p.endFixed := by cases p.endFixed <;> rfl
  have xlatSet : Fin.ofNat 8 p.xlatSet.val = p.xlatSet := Fin.ofNat_val_eq_self p.xlatSet
  show { p with endFixed := decide (p.endFixed.toNat = 1), xlatSet := Fin.ofNat 8 p.xlatSet.val } = p
  rw [endFixed, xlatSet]

/-! ## The part configuration and the cursor -/

theorem partConfig_ofOctets {c : PartConfig} (h : c.inRange) : PartConfig.ofOctets c.octets = c := by
  obtain ⟨fwd, back, hold, window, limit, reject⟩ := h
  have mask : (octet c.partMask.toNat).extractLsb' 0 6 = c.partMask := by
    have := c.partMask.isLt
    refine BitVec.eq_of_toNat_eq ?_
    rw [BitVec.extractLsb'_toNat, toNat_octet_of_lt (by omega), Nat.shiftRight_zero, Nat.mod_eq_of_lt this]
  have wide : 100 ≤ c.qualWindow ∧ c.qualWindow ≤ 1000 := by omega
  refine (PartConfig.mk.injEq ..).mpr ?_
  exact ⟨octet_inRange fwd (by decide), octet_inRange back (by decide), octets2_inRange hold (by decide),
    octets2_inRange wide (by decide), octet_inRange limit (by decide), octet_inRange reject (by decide), mask⟩

theorem pageOfCode_code (g : Page) : pageOfCode g.code = some g := by cases g <;> rfl

theorem getLsbD_flagOctet (b : Bool) : (flagOctet b).getLsbD 0 = b := by cases b <;> rfl

/-- The kind and the set that the cursor's octets carry name its table (R170). -/
theorem tableOf_code (table : TableRef) : ∃ kind set : Byte, tableOf kind set = .ok table ∧
    ∀ (g : Page) (o : Nat) (a : Bool), Cursor.octets ⟨table, g, o, a⟩ = [kind, set, g.code, octet o, flagOctet a] := by
  cases table with
  | trans k => exact ⟨0, octet k.val, by revert k; decide, fun _ _ _ => rfl⟩
  | code k => exact ⟨1, octet k.val, by revert k; decide, fun _ _ _ => rfl⟩
  | tone => exact ⟨2, 0, rfl, fun _ _ _ => rfl⟩

theorem size_le (table : TableRef) : table.size ≤ 20 := by cases table <;> simp [TableRef.size]

theorem cursor_readsBack {c : Cursor} (h : c.offset ≤ c.table.size) : ∃ kind set page offset auto : Byte,
    c.octets = [kind, set, page, offset, auto] ∧ tableOf kind set = .ok c.table ∧ pageOfCode page = some c.page ∧
    offset.toNat = c.offset ∧ auto.getLsbD 0 = c.autoIncrement := by
  obtain ⟨kind, set, named, octets⟩ := tableOf_code c.table
  have := size_le c.table
  exact ⟨kind, set, _, _, _, octets c.page c.offset c.autoIncrement, named, pageOfCode_code _, toNat_octet_of_lt (by omega),
    getLsbD_flagOctet _⟩

/-! ## Notices -/

/-- An octet made of eight bits, bit 0 first. -/
theorem getLsbD_octet_bits : ∀ (b0 b1 b2 b3 b4 b5 b6 b7 : Bool) (j : Fin 8),
    (octet ([if b0 then 2 ^ 0 else 0, if b1 then 2 ^ 1 else 0, if b2 then 2 ^ 2 else 0, if b3 then 2 ^ 3 else 0, if b4 then 2 ^ 4 else 0,
      if b5 then 2 ^ 5 else 0, if b6 then 2 ^ 6 else 0, if b7 then 2 ^ 7 else 0].sum)).getLsbD j =
    [b0, b1, b2, b3, b4, b5, b6, b7].getD j false := by
  decide +kernel

/-- Bit j of line octet i stands for line 8 × i + j (12.2). -/
theorem getLsbD_lineBitsOctet (members : List LineId) (i : Nat) (j : Fin 8) :
    (lineBitsOctet members i).getLsbD j = members.any fun n => n.val = 8 * i + j.val := by
  refine (getLsbD_octet_bits (members.any fun n => n.val = 8 * i + 0) _ _ _ _ _ _ (members.any fun n => n.val = 8 * i + 7) j).trans ?_
  fin_cases j <;> rfl

/-- The line bits of a notice name the members of the pending map (R169). -/
theorem noticeBody_bits (members : List LineId) (part : Bool) : ∃ b0 b1 b2 b3 b4 b5 : Byte,
    noticeBody members part = [0xA2, 0x00, b0, b1, b2, b3, b4, b5, if part then 1 else 0] ∧
    ∀ n : LineId, ([b0, b1, b2, b3, b4, b5].getD (n.val / 8) 0).getLsbD (n.val % 8) = decide (n ∈ members) := by
  refine ⟨_, _, _, _, _, _, rfl, fun n => ?_⟩
  have lineOctet : ∀ i < 6, [lineBitsOctet members 0, lineBitsOctet members 1, lineBitsOctet members 2, lineBitsOctet members 3,
      lineBitsOctet members 4, lineBitsOctet members 5].getD i 0 = lineBitsOctet members i := by
    intro i hi
    interval_cases i <;> rfl
  have same : 8 * (n.val / 8) + n.val % 8 = n.val := Nat.div_add_mod _ _
  rw [lineOctet _ (by omega)]
  refine (getLsbD_lineBitsOctet members (n.val / 8) ⟨n.val % 8, by omega⟩).trans ?_
  rw [Bool.eq_iff_iff]
  simp [same, Fin.val_inj]

end Sys2Proof.Machine
end

section
/-! PROOF. O53, the layouts octet by octet, and the statement as a whole. -/

namespace Sys2Proof.Machine

/-! ## Entries, records and reports -/

theorem codeEntry_octets (e : CodeEntry) : e.octets =
    [octet ((if e.isEnd then 128 else 0) + (if e.notify then 64 else 0) + actionCode e.action),
      octet (16 * e.code.length + e.replacement.length)] ++ symbolOctets 3 e.code ++ symbolOctets 4 e.replacement := by
  rw [CodeEntry.octets, Nat.mul_comm]

theorem symbolOctets_eq (size : Nat) (ys : List Symbol) : symbolOctets size ys =
    (List.range size).map fun i => octet (16 * (ys.getD (2 * i) 0).val + (ys.getD (2 * i + 1) 0).val) := by
  simp only [symbolOctets, symbolPair, Nat.mul_comm]

/-- A flag bit of weight `w` in an octet of flags. -/
theorem mul_toNat (w : Nat) (b : Bool) : w * b.toNat = if b then w else 0 := by cases b <;> simp

theorem toNat_eq_ite (b : Bool) : b.toNat = if b then 1 else 0 := by cases b <;> rfl

theorem emitterReport_octets (r : EmitterReport) : r.octets =
    [octet r.state,
      octet ((if r.hold then 1 else 0) + (if r.firstWait.isSome then 2 else 0) +
        (match r.slot with | .empty => 0 | .waiting => 4 | .emitting => 8)),
      octet (r.firstWait.getD 0 / 256), octet (r.firstWait.getD 0), octet r.waiting] := by
  simp only [EmitterReport.octets, EmitterReport.flags, mul_toNat]
  rw [toNat_eq_ite]
  cases r.slot <;> rfl

theorem voiceReport_octets (r : VoiceReport) : r.octets =
    [octet ((if r.hook then 1 else 0) + (if r.fault then 2 else 0) +
        (match r.mute with | .passing => 0 | .pending _ => 4 | .muted => 8)),
      octet ((if r.sources.a then 1 else 0) + (if r.sources.b then 2 else 0) + (if r.sources.c then 4 else 0) +
        (if r.sources.d then 8 else 0) + (if r.sources.e then 16 else 0))] := by
  simp only [VoiceReport.octets, Sources.bits, mul_toNat]
  rw [toNat_eq_ite, toNat_eq_ite]
  cases r.mute <;> rfl

theorem pendingCode_eq (m : Option Mode) : pendingCode m =
    match m with | none => 0xFF | some .convert => 0 | some .pass => 1 | some .parked => 2 := by
  rcases m with _ | _ | _ | _ <;> rfl

theorem lineConfig_octets (c : LineConfig) : c.octets =
    [match c.mode with | .convert => 0 | .pass => 1 | .parked => 2,
      match c.pendingMode with | none => 0xFF | some .convert => 0 | some .pass => 1 | some .parked => 2,
      octet c.profile.val, octet (c.eventMask.toNat / 256), octet c.eventMask.toNat, if c.lineMute then 1 else 0,
      octet (c.endOverride.getD 0 / 256), octet (c.endOverride.getD 0),
      match c.meterMode with | .resetOnRead => 0 | .hold => 1] := by
  rw [LineConfig.octets, pendingCode_eq]
  rfl

theorem reasonCode_eq (r : Option RejectReason) : reasonCode r =
    match r with | none => 0 | some .overlong => 1 | some .malformed => 2 | some .table => 3 := by
  rcases r with _ | _ | _ | _ <;> rfl

theorem lineReport_octets (r : LineReport) : r.octets =
    [octet r.line.val, octet (r.events.toNat / 256), octet r.events.toNat,
      match r.rejectReason with | none => 0 | some .overlong => 1 | some .malformed => 2 | some .table => 3,
      match r.mode with | .convert => 0 | .pass => 1 | .parked => 2,
      match r.pendingMode with | none => 0xFF | some .convert => 0 | some .pass => 1 | some .parked => 2,
      octet r.decoder, octet r.pulses, octet ((if r.loop = .closed then 1 else 0) + (if r.fault then 2 else 0))] ++
    r.emitter.octets ++ r.voice.octets := by
  rw [LineReport.octets, pendingCode_eq, reasonCode_eq, mul_toNat]
  rfl

theorem decoder_code_eq (d : Decoder) : d.code = match d with
    | .idle => 0 | .seizing => 1 | .inCall (.closed .offhook) _ => 2 | .inCall (.closed .indigit) _ => 3
    | .inCall (.closed .discard) _ => 4 | .inCall (.opened _) _ => 5 | .fault => 6 := by
  rcases d with _ | _ | _ | ⟨(_ | _ | _) | _, _⟩ <;> rfl

/-! ## Messages and results -/

theorem reply_ack_body (tag kind : Byte) (clamped deferred f : Bool) (r : Result) :
    (Reply.mk tag kind (.ack clamped deferred r) f).body =
      [0xA0, tag, kind, octet ((if clamped then 1 else 0) + (if deferred then 2 else 0))] ++ r.octets := by
  cases clamped <;> cases deferred <;> rfl

theorem part_octets (flags : PartEventSet) (checks discarded : Nat) (lu sd : AlignState) :
    (Result.part flags checks discarded lu sd).octets =
      [octet flags.toNat, octet (checks / 256), octet checks, octet (discarded / 256), octet discarded] ++
      [lu, sd].map fun a => octet (match a with | .hunt => 0 | .confirm => 1 | .locked => 2 | .flywheel => 3) := by
  have code : ∀ a : AlignState, a.code = octet (match a with | .hunt => 0 | .confirm => 1 | .locked => 2 | .flywheel => 3) := by
    rintro (_ | _ | _ | _) <;> rfl
  simp only [Result.octets, octets2, code, List.map_cons, List.map_nil, List.cons_append, List.nil_append]

theorem counters_octets (c : Counters) : c.octets =
    [c.digitsEnded, c.pulses, c.distorted, c.glitches, c.abortedRuns, c.rejected, c.speedOut, c.falseSeizures].flatMap
      fun v => [octet (v / 256), octet v] := rfl

theorem optional_counters_octets (last : Option Counters) : flagOctet last.isSome :: (last.getD Counters.zero).octets =
    match last with | none => List.replicate 17 0 | some l => 1 :: l.octets := by
  cases last with
  | none => decide
  | some l => rfl

theorem optional_extremes_octets (extremes : Option Extremes) :
    flagOctet extremes.isSome :: (octets2 (extremes.getD ⟨0, 0⟩).slowest ++ octets2 (extremes.getD ⟨0, 0⟩).fastest) =
    match extremes with
    | none => List.replicate 5 0
    | some e => [1, octet (e.slowest / 256), octet e.slowest, octet (e.fastest / 256), octet e.fastest] := by
  cases extremes with
  | none => decide
  | some e => rfl

/-- Absent records of the quality results are 0 in full width (R175). -/
theorem quality_octets (c : Counters) (last : Option Counters) (extremes : Option Extremes) :
    (Result.quality ⟨c, last, extremes⟩).octets = c.octets ++
      (match last with | none => List.replicate 17 0 | some l => 1 :: l.octets) ++
      (match extremes with
        | none => List.replicate 5 0
        | some e => [1, octet (e.slowest / 256), octet e.slowest, octet (e.fastest / 256), octet e.fastest]) := by
  have flat : (Result.quality ⟨c, last, extremes⟩).octets = c.octets ++ (flagOctet last.isSome :: (last.getD Counters.zero).octets) ++
      (flagOctet extremes.isSome :: (octets2 (extremes.getD ⟨0, 0⟩).slowest ++ octets2 (extremes.getD ⟨0, 0⟩).fastest)) := by
    simp [Result.octets, Quality.octets]
  exact flat.trans (congrArg₂ _ (congrArg _ (optional_counters_octets last)) (optional_extremes_octets extremes))

/-! ## The statement, part by part -/

theorem slotBits_inTime (w : SlotWord) : (slotBits w).length = 16 ∧ ∀ i, i < 16 → (slotBits w)[i]? = some (w.getLsbD (15 - i)) :=
  ⟨length_slotBits w, fun i hi => by rw [List.getElem?_eq_getElem (by simpa [length_slotBits] using hi), getElem_slotBits w hi]⟩

theorem slots_of_frame (f : Frame) : f.toSlots.get 0 = f.marker ∧
    (f.toSlots.get 1).extractLsb' 8 8 = f.mgmtHigh ∧ (f.toSlots.get 1).extractLsb' 0 8 = f.mgmtLow ∧
    ∀ (n : LineId) (w : SlotWord), w = f.toSlots.get ⟨n.val + 2, by omega⟩ →
      w.extractLsb' 2 14 = (f.channels.get n).voice ∧ w.getLsbD 1 = (f.channels.get n).a ∧ w.getLsbD 0 = (f.channels.get n).b := by
  refine ⟨get_toSlots_zero f, ?_, ?_, fun n w e => ?_⟩
  · rw [get_toSlots_one, extract_append_high]
  · rw [get_toSlots_one, extract_append_low]
  · rw [get_toSlots_line] at e
    have channel := ofSlot_toSlot (f.channels.get n)
    rw [← e] at channel
    exact ⟨congrArg Channel.voice channel, congrArg Channel.a channel, congrArg Channel.b channel⟩

/-- Settles O53. -/
theorem layoutsReadBack : Obligations.LayoutsReadBack := by
  refine ⟨⟨frame_ofSlots_toSlots, frame_toSlots_ofSlots, transOfCode_code, fun e valid => ⟨length_code_octets e, codeEntryOf_octets valid⟩,
      fun t fl fh al ah => ⟨length_tone_octets t, toneEntryOf_octets fl fh al ah⟩, fun p h => ?_,
      fun c h => ⟨rfl, partConfig_ofOctets h⟩, fun c h => cursor_readsBack h⟩,
    ⟨slots_of_frame, slotBits_inTime⟩,
    ⟨profile_octets, fun _ => rfl, fun v => ?_, fun _ => rfl, fun e => ?_, by decide, symbolOctets_eq, fun _ _ _ => ⟨rfl, rfl, rfl⟩, fun g o a c hc => ?_,
      toNat_octet⟩,
    ⟨reply_ack_body, fun _ _ _ c => ?_, noticeBody_bits⟩,
    ⟨lineConfig_octets, emitterReport_octets, fun e => ?_, decoder_code_eq, voiceReport_octets, lineReport_octets⟩,
    ⟨part_octets, by decide, fun _ _ _ _ => ⟨rfl, rfl, rfl, rfl⟩, fun _ _ _ _ _ => ⟨rfl, rfl, rfl, rfl⟩,
      fun es o i bound active x y => ⟨?_, ?_, rfl, rfl, rfl, rfl⟩, fun _ _ _ => ⟨rfl, rfl⟩, ⟨by decide, fun _ _ => rfl⟩,
      fun c last extremes => ⟨quality_octets c last extremes, counters_octets c⟩⟩⟩
  · rw [profileWire_ofOctets h]
    exact ⟨by rw [profile_octets]; rfl, clamped_wire h, codeSetOfCode_code p.codeSet, toProfile_wire p⟩
  · cases v <;> rfl
  · exact codeEntry_octets e
  · subst hc
    cases g <;> exact ⟨fun _ => rfl, fun _ => rfl, rfl⟩
  · cases c <;> rfl
  · cases e <;> rfl
  · simp [Result.octets, flagOctet]
  · simp [Result.octets]

end Sys2Proof.Machine
end

section
/-! PROOF. O60: one sample arrival, step by step. -/

namespace Sys2Proof.Machine

/-! ## The taking of a pending mode -/

/-- R28: a line whose decoder is in IDLE and whose F is 0 takes whatever pending mode it has by its configuration alone. -/
theorem becomeIdle_noFault {n : LineId} {s : State} (idle : (s.line n).decoder = .idle) (fault : (s.line n).filter.fault = false) :
    becomeIdle n s = s.modLine n fun l => { l with config := l.config.taken } := by
  by_cases p : (s.line n).config.pendingMode = some .convert
  · simp only [becomeIdle, p, enterMode]
    exact modLine_congr s n (by simp [LineConfig.taken, p, fault, idle])
  · exact becomeIdle_eq idle p

/-- R68: the exit of a decoder in FAULT, as one change of the line. -/
theorem exitFault_eq (n : LineId) (s : State) : exitFault n s =
    if (s.line n).decoder = .fault ∧ (s.line n).filter.fault = false ∧ (s.line n).filter.loop = .opened
    then s.modLine n fun l => { l with decoder := .idle, config := l.config.taken } else s := by
  unfold exitFault
  split
  · rename_i due
    rw [becomeIdle_noFault (decoder_setDecoder n _ s) (by rw [setDecoder_eq, line_modLine_self]; exact due.2.1), setDecoder_eq,
      modLine_modLine]
  · rfl

/-! ## Step 1 of R47 -/

@[simp] theorem profileOf_setFilter (s : State) (n : LineId) (f : Filter) : (s.setFilter n f).profileOf n = s.profileOf n := by
  simp [State.profileOf, setFilter_eq]

/-- R19, R53: under the relations of R19 a break is a flash exactly when it lasts from FLASH_MIN to FLASH_MAX. -/
theorem classifyBreak_eq_flash {p : Profile} (ordered : p.ordered = true) (d : Nat) :
    classifyBreak p d = .flash ↔ p.flashMin * 8 ≤ d ∧ d ≤ p.flashMax * 8 := by
  simp only [Profile.ordered, Bool.and_eq_true, decide_eq_true_eq] at ordered
  unfold classifyBreak
  split_ifs <;> simp <;> omega

/-- R47, R59: the close of a break leaves a fresh dial-idle count exactly where a flash ends a digit. -/
theorem restarted_closeBreak (n : LineId) (openFrom : DigitPhase) (c : Call) (d : Nat) (s : State) :
    (closeBreak n openFrom c d s).restarted = (openFrom = .indigit && classifyBreak (s.profileOf n) d = .flash) := by
  unfold closeBreak
  cases classifyBreak (s.profileOf n) d <;> cases openFrom <;> rfl

/-- R47: of all transitions only the flash that ends a digit leaves a fresh dial-idle count. -/
theorem restarted_takeTransition (n : LineId) (now : LoopState) (d : Nat) {s : State} (ordered : (s.profileOf n).ordered = true) :
    (takeTransition n now d s).restarted = match (s.line n).decoder, now with
      | .inCall (.opened .indigit) _, .closed => decide ((s.profileOf n).flashMin * 8 ≤ d ∧ d ≤ (s.profileOf n).flashMax * 8)
      | _, _ => false := by
  unfold takeTransition
  rcases (s.line n).decoder with _ | _ | _ | ⟨phase | openFrom, c⟩ <;> cases now
  case inCall.opened.closed =>
    exact (restarted_closeBreak n openFrom c d s).trans (by cases openFrom <;> simp [classifyBreak_eq_flash ordered])
  case inCall.opened.opened => cases openFrom <;> rfl
  all_goals rfl

theorem loopSample_eq (n : LineId) (l : Bool) (s : State) : loopSample n l s =
    consumeLoop n ((s.line n).filter.takeLoop (s.profileOf n) l).2
      (s.setFilter n ((s.line n).filter.takeLoop (s.profileOf n) l).1) := rfl

theorem consumeLoop_convert {n : LineId} {s : State} (h : (s.line n).config.mode = .convert) (r : LoopResult) :
    consumeLoop n r s = laterSteps n (takeLoopResult n r s) := by simp [consumeLoop, h, decodeArrival]

theorem consumeLoop_parked {n : LineId} {s : State} (h : (s.line n).config.mode = .parked) (r : LoopResult) :
    consumeLoop n r s = s := by simp [consumeLoop, h]

theorem consumeLoop_pass_open {n : LineId} {s : State} (h : (s.line n).config.mode = .pass) (d : Nat) :
    consumeLoop n (.confirmed .opened d) s = becomeIdle n s := by simp [consumeLoop, h]

theorem consumeLoop_pass_other {n : LineId} {s : State} (h : (s.line n).config.mode = .pass) {r : LoopResult}
    (other : ∀ d, r ≠ .confirmed .opened d) : consumeLoop n r s = s := by
  rcases r with _ | _ | ⟨_ | _, d⟩
  case confirmed.opened => exact absurd rfl (other d)
  all_goals simp [consumeLoop, h]

/-! ## Steps 2 and 3 of R47 -/

/-- R50: the seize timer. -/
theorem takeTimers_seizing {n : LineId} {s : State} (h : (s.line n).decoder = .seizing) : takeTimers n s =
    if (s.profileOf n).seizeMin * 8 ≤ (s.line n).filter.measured then ⟨openCall n s, true⟩ else ⟨s, false⟩ := by
  simp [takeTimers, seizeDue, clearDue, digitEndDue, h]

/-- R64: the clear timer. -/
theorem takeTimers_opened {n : LineId} {s : State} {f : DigitPhase} {c : Call} (h : (s.line n).decoder = .inCall (.opened f) c) :
    takeTimers n s =
      if (s.profileOf n).flashMax * 8 < (s.line n).filter.measured then ⟨hangUp n s, false⟩ else ⟨s, false⟩ := by
  simp [takeTimers, seizeDue, clearDue, digitEndDue, h]

/-- The comparison with the threshold in force, which fails where none has been computed (R76). -/
theorem pair_of_threshold {α : Type} (c : Call) (measured : Nat) (x y : α) :
    (match c.threshold with
      | none => y
      | some threshold => if threshold ≤ c.makeAcc + measured then x else y) = if c.digitDone measured = true then x else y := by
  cases h : c.threshold <;> simp [Call.digitDone, h]

/-- What a timer brings, from its state and its mark. -/
theorem taken_of_pair {p : Prop} [Decidable p] {a b : State × Bool} {t : State} {fresh : Bool}
    (h : (t, fresh) = if p then a else b) : (if p then Taken.mk a.1 a.2 else ⟨b.1, b.2⟩) = ⟨t, fresh⟩ := by
  split at h <;> subst h <;> simp [*]

/-- R60, R76: the digit-end timer of a digit. -/
theorem takeTimers_indigit {n : LineId} {s : State} {c : Call} (h : (s.line n).decoder = .inCall (.closed .indigit) c) :
    takeTimers n s = if c.digitDone (s.line n).filter.measured then ⟨completeDigit n c s, true⟩ else ⟨s, false⟩ := by
  simp [takeTimers, seizeDue, clearDue, digitEndDue, digitEnd, h]

/-- R62, R76: the digit-end timer of a discard. -/
theorem takeTimers_discard {n : LineId} {s : State} {c : Call} (h : (s.line n).decoder = .inCall (.closed .discard) c) :
    takeTimers n s =
      if c.digitDone (s.line n).filter.measured then ⟨s.setDecoder n (.inCall (.closed .offhook) c), false⟩ else ⟨s, false⟩ := by
  simp [takeTimers, seizeDue, clearDue, digitEndDue, digitEnd, h]

/-- R47: the other states have no timer. -/
theorem takeTimers_untimed {n : LineId} {s : State}
    (h : (s.line n).decoder = .idle ∨ (s.line n).decoder = .fault ∨ ∃ c, (s.line n).decoder = .inCall (.closed .offhook) c) :
    takeTimers n s = ⟨s, false⟩ := by
  rcases h with h | h | ⟨c, h⟩ <;> simp [takeTimers, seizeDue, clearDue, digitEndDue, h]

/-- R63: without a call there is no dial-idle count. -/
theorem takeDialIdle_noCall {n : LineId} {s : State} (h : (s.line n).decoder.call = none) : takeDialIdle n s = s := by
  have counted : countDialIdle n s = s := modLine_id s n (by
    rcases d : (s.line n).decoder with _ | _ | _ | ⟨st, c⟩
    case inCall => rw [d] at h; cases h
    all_goals simp only [Decoder.mapCall, ← d])
  simp [takeDialIdle, dialIdleDue, callOf_eq, h, counted]

/-- R63: in a call the count goes on by one, and while MATCHING it is compared. -/
theorem takeDialIdle_inCall {n : LineId} {s : State} {st : CallState} {c : Call} (h : (s.line n).decoder = .inCall st c) :
    takeDialIdle n s =
      if c.phase = .matching ∧ (s.profileOf n).dialIdle * 8 ≤ min 262143 (c.dialIdle + 1)
      then handDialIdle n (s.setDecoder n (.inCall st { c with dialIdle := min 262143 (c.dialIdle + 1) }))
      else s.setDecoder n (.inCall st { c with dialIdle := min 262143 (c.dialIdle + 1) }) := by
  have counted : countDialIdle n s = s.setDecoder n (.inCall st { c with dialIdle := min 262143 (c.dialIdle + 1) }) :=
    modLine_congr s n (by simp [h, Decoder.mapCall, satAdd])
  simp [takeDialIdle, dialIdleDue, callOf_eq, h, Decoder.call, counted, satAdd]

/-- R47: steps 2 and 3, from what the timer of the state brings. -/
theorem laterSteps_of_timers {n : LineId} {s t : State} {fresh : Bool} (timers : takeTimers n s = ⟨t, fresh⟩) (first : Bool) :
    laterSteps n ⟨s, first⟩ = if first = true ∨ fresh = true then t else takeDialIdle n t := by
  simp [laterSteps, timers]

/-- R54, R76: a glitch that fills the threshold in force ends its digit at the same arrival. -/
theorem laterSteps_digitDone {n : LineId} {s : State} {c : Call} (h : (s.line n).decoder = .inCall (.closed .indigit) c)
    (done : c.digitDone (s.line n).filter.measured = true) (first : Bool) : laterSteps n ⟨s, first⟩ = completeDigit n c s := by
  rw [laterSteps_of_timers ((takeTimers_indigit h).trans (if_pos done)), if_pos (.inr rfl)]

/-! ## One arrival -/

/-- R41, R47: the L sample, by the line's mode. -/
theorem loopSample_convert {n : LineId} {s : State} (h : (s.line n).config.mode = .convert) (l : Bool) : loopSample n l s =
    laterSteps n (takeLoopResult n ((s.line n).filter.takeLoop (s.profileOf n) l).2
      (s.setFilter n ((s.line n).filter.takeLoop (s.profileOf n) l).1)) :=
  consumeLoop_convert (by rwa [config_setFilter]) _

/-- R53, R54: a break shorter than PULSE_MIN is a glitch. -/
theorem closeBreak_glitch (n : LineId) (f : DigitPhase) (c : Call) {d : Nat} {s : State} (short : d < (s.profileOf n).pulseMin * 8) :
    closeBreak n f c d s = ⟨glitchBreak n f c d s, false⟩ := by
  simp [closeBreak, classifyBreak, short]

/-- R47, R54, R76: the close of a glitch in a digit, with the threshold in force filled at the same arrival. -/
theorem loopSample_glitch_ends {n : LineId} {s : State} {c : Call} {threshold : Nat} (confirms : s.confirms n)
    (convert : (s.line n).config.mode = .convert) (opened : (s.line n).filter.loop = .opened)
    (call : (s.line n).decoder = .inCall (.opened .indigit) c) (inForce : c.threshold = some threshold)
    (short : (s.line n).filter.endedLength < (s.profileOf n).pulseMin * 8)
    (filled : threshold ≤ min 65535 (c.makeAcc + (s.line n).filter.endedLength) + ((s.line n).filter.run + 1)) :
    loopSample n true s = completeDigit n (c.addMake (s.line n).filter.endedLength)
      (glitchBreak n .indigit c (s.line n).filter.endedLength (s.setFilter n (s.line n).filter.turned)) := by
  have contrary : true = !(s.line n).filter.stableSample := by simp [Filter.stableSample, opened]
  rw [contrary, loopSample_confirms confirms, consumeLoop_convert (by rwa [config_setFilter]), opened]
  have taken : takeLoopResult n (.confirmed .closed (s.line n).filter.endedLength) (s.setFilter n (s.line n).filter.turned) =
      ⟨glitchBreak n .indigit c (s.line n).filter.endedLength (s.setFilter n (s.line n).filter.turned), false⟩ := by
    rw [← closeBreak_glitch n .indigit c (by rwa [profileOf_setFilter])]
    simp [takeLoopResult, takeTransition, call]
  refine (congrArg (laterSteps n) taken).trans (laterSteps_digitDone (by simp [glitchBreak]) ?_ false)
  simpa [glitchBreak, setDecoder_eq, reportGlitch, modQuality_eq, setFilter_eq, Call.digitDone, Call.addMake, satAdd, inForce,
    Filter.measured, Filter.turned] using filled

/-! ## The G sample -/

theorem takeFault_agreeing {f : Filter} {g : Bool} (h : g = f.fault) : f.takeFault g = ({ f with faultRun := 0 }, none) := if_pos h

theorem takeFault_contrary {f : Filter} {g : Bool} (h : g ≠ f.fault) (few : f.faultRun < 15) :
    f.takeFault g = ({ f with faultRun := f.faultRun + 1 }, none) := by
  rw [Filter.takeFault, if_neg h, if_pos (by omega)]

theorem takeFault_changes {f : Filter} {g : Bool} (h : g ≠ f.fault) (due : 15 ≤ f.faultRun) :
    f.takeFault g = ({ f with fault := g, faultRun := 0 }, some g) := by
  rw [Filter.takeFault, if_neg h, if_neg (by omega)]

/-- R40, R47: a G sample that leaves F as it is, and the exit test. -/
theorem faultSample_quiet {n : LineId} {s : State} {g : Bool} {f : Filter} (h : (s.line n).filter.takeFault g = (f, none)) :
    faultSample n g s = exitFault n (s.setFilter n f) := by
  simp [faultSample, h]

/-- R40, R41, R47: a G sample that changes F, and the exit test. -/
theorem faultSample_changed {n : LineId} {s : State} {g v : Bool} {f : Filter}
    (h : (s.line n).filter.takeFault g = (f, some v)) :
    faultSample n g s = exitFault n (faultChanged n v (s.setFilter n f)) := by
  simp [faultSample, h]

/-- R67: F becoming 1 clears any call of a CONVERT line into FAULT. -/
theorem faultChanged_true (n : LineId) (s : State) : faultChanged n true s =
    if (s.line n).config.mode = .convert then clearCall n .fault (latch n .faultOn s) else latch n .faultOn s := by
  simp [faultChanged, enterFault]

theorem faultChanged_false (n : LineId) (s : State) : faultChanged n false s = latch n .faultOff s := rfl

/-- Settles O60. -/
theorem arrivalsTakeTheirSteps : Obligations.ArrivalsTakeTheirSteps := by
  refine ⟨?_, ?_, ?_, fun _ _ _ _ => rfl, ?_⟩
  · rintro n s s0 l r rfl rfl
    refine ⟨fun h => consumeLoop_parked (by rwa [config_setFilter]) _,
      fun h other => consumeLoop_pass_other (by rwa [config_setFilter]) other,
      fun h ⟨d, e⟩ => ?_, fun h ordered => ?_⟩
    · rw [loopSample_eq, e]
      exact consumeLoop_pass_open (by rwa [config_setFilter]) d
    · rw [loopSample_convert h]
      refine congrArg (laterSteps n) ?_
      rcases ((s.line n).filter.takeLoop (s.profileOf n) l).2 with _ | _ | ⟨now, d⟩
      case confirmed =>
        have fresh := restarted_takeTransition n now d (by rwa [profileOf_setFilter] : ((s.setFilter n
          ((s.line n).filter.takeLoop (s.profileOf n) l).1).profileOf n).ordered = true)
        rw [profileOf_setFilter] at fresh
        exact congrArg (Taken.mk _) fresh
      all_goals rfl
  · rintro n s1 s2 first fresh measured rfl timers
    have timers : takeTimers n s1 = ⟨s2, fresh⟩ := by
      rcases h : (s1.line n).decoder with _ | _ | _ | ⟨⟨_ | _ | _⟩ | f, c⟩ <;> rw [h] at timers
      case seizing => exact (takeTimers_seizing h).trans (taken_of_pair timers)
      case inCall.opened => exact (takeTimers_opened h).trans (taken_of_pair timers)
      case inCall.closed.indigit =>
        rw [takeTimers_indigit h]
        exact taken_of_pair (timers.trans (pair_of_threshold c _ _ _))
      case inCall.closed.discard =>
        rw [takeTimers_discard h]
        exact taken_of_pair (timers.trans (pair_of_threshold c _ _ _))
      case idle =>
        cases timers
        exact takeTimers_untimed (.inl h)
      case fault =>
        cases timers
        exact takeTimers_untimed (.inr (.inl h))
      case inCall.closed.offhook =>
        cases timers
        exact takeTimers_untimed (.inr (.inr ⟨c, h⟩))
    rw [laterSteps_of_timers timers]
    rcases h : (s2.line n).decoder with _ | _ | _ | ⟨st, c⟩
    case inCall => simp only [takeDialIdle_inCall h]
    all_goals exact (ite_congr rfl (fun _ => rfl) fun _ => takeDialIdle_noCall (by simp [h, Decoder.call])).trans (ite_self _)
  · intro n s c threshold confirms convert opened call inForce short filled
    rw [loopSample_glitch_ends confirms convert opened call inForce short filled]
    refine congrArg (completeDigit n _) ?_
    simp only [glitchBreak, reportGlitch, modQuality_eq, setDecoder_eq, setFilter_eq, modLine_modLine]
    rfl
  · intro n s t g same more on off
    rw [← exitFault_eq]
    by_cases agrees : g = (s.line n).filter.fault
    · rw [same agrees]
      exact faultSample_quiet (takeFault_agreeing agrees)
    by_cases few : (s.line n).filter.faultRun < 15
    · rw [more agrees few]
      exact faultSample_quiet (takeFault_contrary agrees few)
    have due : 15 ≤ (s.line n).filter.faultRun := Nat.le_of_not_lt few
    rw [faultSample_changed (takeFault_changes agrees due)]
    cases g with
    | false => rw [off rfl (by simpa using agrees) due, faultChanged_false]
    | true => rw [on rfl (by simpa using agrees) due, faultChanged_true, config_setFilter]

end Sys2Proof.Machine
end

section
/-! PROOF. O24: the confirmed transition on PASS and PARKED lines, and on a CONVERT line that has no call. -/

namespace Sys2Proof.Machine

/-! ## The arrival of a confirmed transition -/

theorem fault_loopSample (n : LineId) (l : Bool) (s : State) :
    ((loopSample n l s).line n).filter.fault = (s.line n).filter.fault := by
  rw [filter_loopSample]
  unfold Filter.takeLoop Filter.agree Filter.contrary
  dsimp only
  split
  · rfl
  · split <;> rfl

/-- The state with the line's filter turned by the confirming sample (R34). -/
def State.turned (s : State) (n : LineId) : State := s.modLine n fun l => { l with filter := l.filter.turned }

@[simp] theorem line_turned (s : State) (n : LineId) : (s.turned n).line n = { s.line n with filter := (s.line n).filter.turned } :=
  line_modLine_self s n _

theorem setFilter_turned (s : State) (n : LineId) : s.setFilter n (s.line n).filter.turned = s.turned n := modLine_congr s n rfl

/-- R42, R47: the L sample that confirms a transition is consumed by the line with its filter turned. -/
theorem exec_loopTransition_after {n : LineId} {s t : State} {now : LoopState} (up : s.lu.up = true) (confirms : s.confirms n)
    (turns : (s.line n).filter.loop.other = now)
    (after : consumeLoop n (.confirmed now (s.line n).filter.endedLength) (s.turned n) = t) :
    exec (.loopTransition n) s = .next (faultSample n (s.line n).filter.fault t) := by
  rw [exec_loopTransition_confirms up confirms, loopSample_confirms confirms, setFilter_turned, turns, after]

/-- R40, R47: where the L sample comes to a change of the line that keeps F, the G sample of the row empties the fault run, and the exit
of a decoder in FAULT is tested. -/
theorem faultSample_modLine {n : LineId} {s : State} {f : Line → Line} (same : (f (s.line n)).filter.fault = (s.line n).filter.fault) :
    faultSample n (s.line n).filter.fault (s.modLine n f) =
      exitFault n (s.modLine n fun l => { f l with filter := { (f l).filter with faultRun := 0 } }) := by
  rw [faultSample_same _ (by rw [line_modLine_self, same]), modLine_modLine]

/-- R42: a transition that only turns the filter. -/
theorem exec_loopTransition_filterOnly {n : LineId} {s : State} (up : s.lu.up = true) (confirms : s.confirms n)
    (after : consumeLoop n (.confirmed (s.line n).filter.loop.other (s.line n).filter.endedLength) (s.turned n) = s.turned n)
    (stays : (s.line n).decoder ≠ .fault ∨ (s.line n).filter.fault = true ∨ (s.line n).filter.loop = .opened) :
    exec (.loopTransition n) s = .next (s.modLine n fun l => { l with filter := { l.filter.turned with faultRun := 0 } }) := by
  rw [exec_loopTransition_after up confirms rfl after]
  refine congrArg _ ((faultSample_modLine (f := fun l => { l with filter := l.filter.turned }) rfl).trans (exitFault_stays ?_))
  rw [line_modLine_self]
  exact stays.imp id (Or.imp id fun h => by simp [Filter.turned, h, LoopState.other])

/-! ## A CONVERT line with no call -/

/-- R49: a confirmed transition that the decoder passes over, in IDLE and in FAULT. -/
theorem consumeLoop_passedOver {n : LineId} {s : State} {now : LoopState} (convert : (s.line n).config.mode = .convert)
    (h : (s.line n).decoder = .idle ∧ now = .opened ∨ (s.line n).decoder = .fault) (d : Nat) :
    consumeLoop n (.confirmed now d) s = s := by
  have passed : takeTransition n now d s = ⟨s, false⟩ := by
    rcases h with ⟨h, rfl⟩ | h <;> simp [takeTransition, h]
  rw [consumeLoop_convert convert, takeLoopResult, passed, laterSteps_noCall false (h.imp And.left id)]

/-- R49: a confirmed close takes IDLE to SEIZING, and steps 2 and 3 of R47 follow. -/
theorem consumeLoop_seizes {n : LineId} {s : State} (convert : (s.line n).config.mode = .convert)
    (idle : (s.line n).decoder = .idle) (d : Nat) :
    consumeLoop n (.confirmed .closed d) s = laterSteps n ⟨s.setDecoder n .seizing, false⟩ := by
  rw [consumeLoop_convert convert]
  simp [takeLoopResult, takeTransition, idle]

/-- The line after a false seizure: counted, idle, and its pending mode taken (R28, R49). -/
def Line.falselySeized (l : Line) : Line :=
  { l with
    decoder := .idle
    config := l.config.taken
    quality := { l.quality with
      current := { l.quality.current with falseSeizures := min 65535 (l.quality.current.falseSeizures + 1) } } }

theorem becomeIdle_falseSeizure {n : LineId} {s : State} (pending : (s.line n).config.pendingMode ≠ some .convert) :
    becomeIdle n (reportFalseSeizure n (s.setDecoder n .idle)) = s.modLine n Line.falselySeized := by
  rw [becomeIdle_eq (by simp) (by simpa [reportFalseSeizure] using pending)]
  simp only [reportFalseSeizure, modQuality_eq, setDecoder_eq, modLine_modLine]
  rfl

/-- R49: a confirmed open in SEIZING is a false seizure. -/
theorem consumeLoop_falseSeizure {n : LineId} {s : State} (convert : (s.line n).config.mode = .convert)
    (seizing : (s.line n).decoder = .seizing) (pending : (s.line n).config.pendingMode ≠ some .convert) (d : Nat) :
    consumeLoop n (.confirmed .opened d) s = s.modLine n Line.falselySeized := by
  have step : takeTransition n .opened d s = ⟨s.modLine n Line.falselySeized, false⟩ := by
    simp [takeTransition, seizing, becomeIdle_falseSeizure pending]
  rw [consumeLoop_convert convert, takeLoopResult, step, laterSteps_noCall false (.inl (by rw [line_modLine_self]; rfl))]

/-- R28, R42: a PASS line that becomes idle takes a pending CONVERT, with the decoder in FAULT if F is 1. -/
theorem consumeLoop_pass_converts {n : LineId} {s : State} (pass : (s.line n).config.mode = .pass)
    (pending : (s.line n).config.pendingMode = some .convert) (d : Nat) :
    consumeLoop n (.confirmed .opened d) s = enterMode n .convert s := by
  rw [consumeLoop_pass_open pass]
  simp [becomeIdle, pending]

/-- R28, R42: any other transition of a line outside CONVERT changes nothing but the filter. -/
theorem consumeLoop_outsideConvert {n : LineId} {s : State} {now : LoopState}
    (h : (s.line n).config.mode = .parked ∨
      (s.line n).config.mode = .pass ∧ (now = .closed ∨ (s.line n).config.pendingMode = none)) (d : Nat) :
    consumeLoop n (.confirmed now d) s = s := by
  rcases h with parked | ⟨pass, rfl | none_⟩
  · exact consumeLoop_parked parked _
  · exact consumeLoop_pass_other pass (by simp)
  · cases now
    · rw [consumeLoop_pass_open pass, line_becomeIdle_none none_]
    · exact consumeLoop_pass_other pass (by simp)

/-- Settles O24. -/
theorem transitionsOutsideCalls : Obligations.TransitionsOutsideCalls := by
  refine ⟨fun n s up modes confirms => ⟨fun mode => ?_, fun pass closed pending => ?_⟩,
    fun n s up confirms convert => ⟨fun idle opened => ?_, fun idle closed => ?_, fun seizing closed pending => ?_,
      fun fault closed clear => ?_, fun fault stays => ?_⟩⟩
  · have outside : (s.line n).config.mode ≠ .convert := by rcases mode with h | ⟨h, _⟩ <;> simp [h]
    have turnedOnly := consumeLoop_outsideConvert (n := n) (s := s.turned n) (now := (s.line n).filter.loop.other)
      (by simpa using mode.imp id (And.imp id (Or.imp (fun h => by rw [h]; rfl) id)))
    refine (exec_loopTransition_filterOnly up confirms (turnedOnly _) (.inl (by simp [(modes n).1 outside]))).trans ?_
    exact congrArg _ (modLine_congr s n rfl)
  · have after := consumeLoop_pass_converts (n := n) (s := s.turned n) (by simpa using pass) (by simpa using pending)
    rw [exec_loopTransition_after up confirms (by rw [closed]; rfl) (after _), enterMode, State.turned, modLine_modLine,
      faultSample_modLine rfl, exitFault_stays]
    · exact congrArg _ (modLine_congr s n (by simp [Filter.turned]))
    · rw [line_modLine_self]
      cases fault : (s.line n).filter.fault <;> simp [Filter.turned, fault]
  · have after := consumeLoop_seizes (n := n) (s := s.turned n) (by simpa using convert) (by simpa using idle)
    rw [exec_loopTransition_after up confirms (by rw [opened]; rfl) (after _), State.turned, setDecoder_eq, modLine_modLine]
  · have turnedOnly := consumeLoop_passedOver (n := n) (s := s.turned n) (by simpa using convert)
      (.inl ⟨by simpa using idle, (by rw [closed]; rfl : (s.line n).filter.loop.other = .opened)⟩)
    exact exec_loopTransition_filterOnly up confirms (turnedOnly _) (.inl (by simp [idle]))
  · have after := consumeLoop_falseSeizure (n := n) (s := s.turned n) (by simpa using convert) (by simpa using seizing)
      (by simpa using pending)
    rw [exec_loopTransition_after up confirms (by rw [closed]; rfl) (after _), State.turned, modLine_modLine, faultSample_modLine rfl,
      exitFault_stays (.inl (by rw [line_modLine_self]; simp [Line.falselySeized]))]
    rfl
  · have after := consumeLoop_passedOver (now := .opened) (n := n) (s := s.turned n) (by simpa using convert) (.inr (by simpa using fault))
    rw [exec_loopTransition_after up confirms (by rw [closed]; rfl) (after _), State.turned, faultSample_modLine rfl, exitFault_eq,
      line_modLine_self, if_pos ⟨fault, clear, by simp [Filter.turned, closed, LoopState.other]⟩, modLine_modLine]
  · have turnedOnly := consumeLoop_passedOver (now := (s.line n).filter.loop.other) (n := n) (s := s.turned n) (by simpa using convert)
      (.inr (by simpa using fault))
    exact exec_loopTransition_filterOnly up confirms (turnedOnly _) (.inr stays.symm)

end Sys2Proof.Machine
end

section
/-! PROOF. O4, O51, O52: the power-on tables, and the profiles read and written. -/

namespace Sys2Proof.Machine

/-! ## The power-on tables -/

/-- R85: every translation set but set 0 is the cleared one at power-on. -/
theorem xlat_reset_other {k : Fin 8} (other : k ≠ 0) : State.reset.xlat.get k = PagedSet.cleared TransValue.reject := by
  have differs : ¬ 0 = k.val := fun e => other (Fin.ext e.symm)
  simp [State.reset, TransSet.resetAll, Vector.get_eq_getElem, differs]

/-- R85: translation set 0 at power-on. -/
theorem xlat_reset_zero : State.reset.xlat.get 0 = { PagedSet.cleared (size := 20) TransValue.reject with pageA := decadicPage } := rfl

/-- R101: every code set is the cleared one at power-on. -/
theorem code_reset (k : Fin 4) : State.reset.code.get k = PagedSet.cleared CodeEntry.cleared := Vector.get_replicate 4 _ k

/-- Settles O4. -/
theorem powerOnTables : Obligations.PowerOnTables := by
  refine ⟨fun k => Vector.get_replicate 8 Profile.default k, rfl, fun k => ?_, ?_, fun j => Vector.get_replicate _ _ j,
    fun k other j => ?_, fun k => ?_, fun k j => ?_, rfl⟩
  · by_cases h : k = 0
    · rw [h, xlat_reset_zero]
      exact ⟨rfl, rfl, rfl, rfl⟩
    · rw [xlat_reset_other h]
      exact ⟨rfl, rfl, rfl, rfl⟩
  · rw [xlat_reset_zero]
    decide
  · rw [xlat_reset_other other]
    exact ⟨Vector.get_replicate _ _ j, Vector.get_replicate _ _ j⟩
  · rw [code_reset]
    exact ⟨rfl, rfl, rfl, rfl⟩
  · rw [code_reset]
    exact ⟨Vector.get_replicate _ _ j, Vector.get_replicate _ _ j⟩

/-! ## PROFILE-READ -/

/-- Settles O51. -/
theorem profilesAreRead : Obligations.ProfilesAreRead := by
  refine ⟨fun s tag k ready => ?_, fun s tag b ready outside => ?_⟩
  · have names : (octet k.val).toNat = k.val := toNat_octet_of_lt (k.isLt.trans (by decide))
    rw [exec_profileRead_ready ready tag (by simp), ← replied_ackWith _ tag 0x08 (rfl : s.replies = s.replies)]
    simp [reqProfileRead, names]
  · rw [exec_profileRead_ready ready tag (by simp)]
    simp [reqProfileRead, Nat.not_lt.mpr outside, replied_refuseWith]

/-! ## PROFILE-WRITE -/

/-- The clamp is to the nearer bound of the range (00_scope). -/
theorem clamp_eq_max_min {lo hi : Nat} (range : lo ≤ hi) (v : Nat) : clamp lo hi v = max lo (min hi v) := by
  unfold clamp
  split
  · omega
  · split <;> omega

/-- R18, R174: the CODE_SET that an octet names. -/
theorem codeSetOfCode_named {v : Nat} {c : Option (Fin 4)} (names : v = 255 ∧ c = none ∨ ∃ j : Fin 4, v = j.val ∧ c = some j) :
    codeSetOfCode v = some c := by
  rcases names with ⟨rfl, rfl⟩ | ⟨j, rfl, rfl⟩
  · rfl
  · simp [codeSetOfCode]

theorem codeSetOfCode_unnamed {v : Nat} (above : 4 ≤ v) (other : v ≠ 255) : codeSetOfCode v = none := by
  simp [codeSetOfCode, Nat.not_lt.mpr above, other]

/-- R18, R19: a PROFILE-WRITE whose profile and CODE_SET are named stores the clamped values, unless they are out of order. -/
theorem reqProfileWrite_named {b : Byte} {record : List Byte} {k : Fin 8} {c : Option (Fin 4)} {w : ProfileWire}
    (whole : record.length = 38) (names : b = octet k.val) (carries : ProfileWire.ofOctets record = w)
    (codes : codeSetOfCode w.codeSet = some c) (s : State) : reqProfileWrite (b :: record) s =
      if (w.clamped.toProfile c).ordered
      then ackClamped { s with profiles := vmod s.profiles k fun _ => w.clamped.toProfile c } (w.clamped ≠ w)
        (.profile k (w.clamped.toProfile c))
      else refuseWith s .order := by
  subst carries
  obtain ⟨k, lt⟩ := k
  have number : b.toNat = k := by rw [names]; exact toNat_octet_of_lt (lt.trans (by decide))
  subst number
  simp [reqProfileWrite, whole, lt, codes, vmod]

/-- R18, R19: the PROFILE-WRITE that is accepted. -/
theorem exec_profileWrite_ordered {s : State} (ready : s.ready) (tag : Byte) {b : Byte} {record : List Byte} {k : Fin 8}
    {c : Option (Fin 4)} {w : ProfileWire} (whole : record.length = 38) (names : b = octet k.val)
    (carries : ProfileWire.ofOctets record = w) (codes : codeSetOfCode w.codeSet = some c)
    (ordered : (w.clamped.toProfile c).ordered = true) : exec (.profileWrite tag (b :: record)) s = .next
      ({ s with profiles := vmod s.profiles k fun _ => w.clamped.toProfile c }.replied tag 0x07
        (.ack (w.clamped ≠ w) false (.profile k (w.clamped.toProfile c)))) := by
  rw [exec_profileWrite_ready ready tag (by simp [whole]), reqProfileWrite_named whole names carries codes, if_pos ordered]
  exact congrArg _ (replied_ackClamped _ _ _ _ rfl)

/-- R19: the PROFILE-WRITE whose clamped values are out of order. -/
theorem exec_profileWrite_unordered {s : State} (ready : s.ready) (tag : Byte) {b : Byte} {record : List Byte} {k : Fin 8}
    {c : Option (Fin 4)} {w : ProfileWire} (whole : record.length = 38) (names : b = octet k.val)
    (carries : ProfileWire.ofOctets record = w) (codes : codeSetOfCode w.codeSet = some c)
    (unordered : (w.clamped.toProfile c).ordered = false) :
    exec (.profileWrite tag (b :: record)) s = .next (s.refusedBy tag 0x07 .order) := by
  rw [exec_profileWrite_ready ready tag (by simp [whole]), reqProfileWrite_named whole names carries codes,
    if_neg (by simp [unordered]), replied_refuseWith]

/-- R18: the PROFILE-WRITE that names no profile, and the one that names no CODE_SET. -/
theorem exec_profileWrite_refused {s : State} (ready : s.ready) (tag : Byte) {b : Byte} {record : List Byte}
    (whole : record.length = 38) :
    (8 ≤ b.toNat → exec (.profileWrite tag (b :: record)) s = .next (s.refusedBy tag 0x07 .range)) ∧
    (b.toNat < 8 → codeSetOfCode (ProfileWire.ofOctets record).codeSet = none →
      exec (.profileWrite tag (b :: record)) s = .next (s.refusedBy tag 0x07 .value)) := by
  rw [exec_profileWrite_ready ready tag (by simp [whole])]
  refine ⟨fun outside => ?_, fun inside unnamed => ?_⟩
  · simp [reqProfileWrite, whole, Nat.not_lt.mpr outside, replied_refuseWith]
  · simp [reqProfileWrite, whole, inside, unnamed, replied_refuseWith]

theorem length_profile_octets (p : Profile) : p.octets.length = 38 := by
  rw [profile_octets]
  rfl

/-- Settles O52. -/
theorem profilesAreWritten : Obligations.ProfilesAreWritten := by
  refine ⟨fun s tag k p ready range => ?_, fun p => ?_, fun w c => ⟨profileWire_clamped_inRange w c, rfl⟩,
    fun bs one two ones twos => ?_, fun w => ?_, fun w c => rfl, fun s tag b record w ready whole carries => ?_⟩
  · have same : p.wire.clamped.toProfile p.codeSet = p := by rw [clamped_wire range, toProfile_wire]
    have codes : codeSetOfCode p.wire.codeSet = some p.codeSet := codeSetOfCode_code p.codeSet
    refine ⟨fun ordered => ?_, fun unordered => ?_⟩
    · have written := exec_profileWrite_ordered ready tag (length_profile_octets p) (rfl : octet k.val = octet k.val)
        (profileWire_ofOctets range) codes (by rwa [same])
      rw [written, same]
      simp [clamped_wire range, State.acked]
    · exact exec_profileWrite_unordered ready tag (length_profile_octets p) rfl (profileWire_ofOctets range) codes (by rwa [same])
  · simp only [Profile.ordered, Bool.and_eq_true, decide_eq_true_eq, and_assoc]
  · obtain rfl : one = numAt bs := funext ones
    obtain rfl : two = num2At bs := funext fun i => (twos i).trans (by rw [num2At, number2, numAt, numAt, Nat.mul_comm])
    rfl
  · simp (disch := decide) only [ProfileWire.clamped, clamp_eq_max_min, Nat.zero_max]
  · obtain ⟨range, value⟩ := exec_profileWrite_refused ready tag (b := b) whole
    subst carries
    exact ⟨range, fun inside above other => value inside (codeSetOfCode_unnamed above other), fun k c names codes =>
      ⟨exec_profileWrite_unordered ready tag whole names rfl (codeSetOfCode_named codes),
        exec_profileWrite_ordered ready tag whole names rfl (codeSetOfCode_named codes)⟩⟩

end Sys2Proof.Machine
end

section
/-! PROOF. O48, O49, O50: the part configuration, the line configuration, and the records of a line read and reset. -/

namespace Sys2Proof.Machine

/-! ## PART-CONFIG -/

/-- R31: the clamped part record. -/
theorem partConfig_clamped_eq (c : PartConfig) : c.clamped =
    ⟨max 1 (min 15 c.fwdProt), max 1 (min 15 c.backProt), max 100 (min 5000 c.lossHold), c.qualWindow, max 1 (min 100 c.qualLimit),
      max 1 (min 255 c.rejLimit), c.partMask⟩ := by
  simp (disch := decide) only [PartConfig.clamped, clamp_eq_max_min]

/-- R31, R166: clamping is told from the five fields that it can change. -/
theorem partConfig_clamped_ne (c : PartConfig) : c.clamped ≠ c ↔
    c.clamped.fwdProt ≠ c.fwdProt ∨ c.clamped.backProt ≠ c.backProt ∨ c.clamped.lossHold ≠ c.lossHold ∨
    c.clamped.qualLimit ≠ c.qualLimit ∨ c.clamped.rejLimit ≠ c.rejLimit := by
  obtain ⟨fwd, back, hold, window, limit, rej, mask⟩ := c
  simp only [PartConfig.clamped, ne_eq, PartConfig.mk.injEq]
  tauto

/-- R157, R160: attention is wanted when the new mask enables an event that the old one did not let into the map. -/
theorem setPartFlags_mask (s : State) (c : PartConfig) : s.setPartFlags s.partEvents c = { s with
    part := c
    attention := s.attention || (s.partEvents &&& s.part.partMask == 0 && s.partEvents &&& c.partMask != 0) } := by
  simp [State.setPartFlags, State.partInMap, bne]

theorem exec_partConfigWrite_value {s : State} (ready : s.ready) (tag : Byte) {params : List Byte} (whole : params.length = 9)
    (window : (PartConfig.ofOctets params).qualWindow ≠ 100 ∧ (PartConfig.ofOctets params).qualWindow ≠ 1000) :
    exec (.partConfigWrite tag params) s = .next (s.refusedBy tag 0x03 .value) := by
  have some_ : params ≠ [] := fun e => by simp [e] at whole
  rw [exec_partConfigWrite_ready ready tag some_ (by omega)]
  simp [reqPartConfig, some_, whole, window, replied_refuseWith]

theorem exec_partConfigWrite_stored {s : State} (ready : s.ready) (tag : Byte) {params : List Byte} {c : PartConfig}
    (whole : params.length = 9) (carries : PartConfig.ofOctets params = c) (window : c.qualWindow = 100 ∨ c.qualWindow = 1000) :
    exec (.partConfigWrite tag params) s = .next ((s.setPartFlags s.partEvents c.clamped).replied tag 0x03
      (.ack (c.clamped ≠ c) false (.partConfig c.clamped))) := by
  have some_ : params ≠ [] := fun e => by simp [e] at whole
  have named : ¬ (c.qualWindow ≠ 100 ∧ c.qualWindow ≠ 1000) := by omega
  rw [exec_partConfigWrite_ready ready tag some_ (by omega)]
  simp only [reqPartConfig, if_neg some_, if_pos whole, carries, if_neg named]
  exact congrArg _ (replied_ackClamped _ _ _ _ rfl)

/-- Settles O48. -/
theorem partConfigurationIsReadAndWritten : Obligations.PartConfigurationIsReadAndWritten := by
  refine ⟨fun s tag ready => exec_partConfigRead_ready ready tag,
    fun s tag fwd back h1 h0 w1 w0 limit rej mask c ready stored => ?_⟩
  obtain ⟨d, carried⟩ : ∃ d, PartConfig.ofOctets [fwd, back, h1, h0, w1, w0, limit, rej, mask] = d := ⟨_, rfl⟩
  have clamps : c = d.clamped := by
    rw [stored, partConfig_clamped_eq, ← carried]
    have small : min 255 rej.toNat = rej.toNat := Nat.min_eq_right (Nat.le_of_lt_succ rej.isLt)
    simp only [PartConfig.ofOctets, numAt, num2At, List.getD_cons_zero, List.getD_cons_succ, small]
  have window : c.qualWindow = d.qualWindow := by rw [clamps]; rfl
  refine ⟨fun short long => exec_partConfigWrite_value ready tag rfl ?_, fun named => ?_⟩
  · rw [carried, ← window]
    exact ⟨short, long⟩
  · rw [exec_partConfigWrite_stored ready tag rfl carried (window ▸ named), ← clamps, setPartFlags_mask]
    have told := partConfig_clamped_ne d
    rw [← clamps] at told
    subst carried
    simp only [told]
    rfl

/-! ## Requests of one line -/

theorem withLine_octet (n : LineId) (s : State) (f : LineId → Executed) : withLine [octet n.val] s f = f n := by
  simp [withLine, lineOf_octet]

theorem withLine_outside {b : Byte} (outside : 48 ≤ b.toNat) (s : State) (f : LineId → Executed) :
    withLine [b] s f = refuseWith s .range := by
  simp [withLine, lineOf_none outside]

@[simp] theorem replies_clearCall (n : LineId) (d : Decoder) (s : State) : (clearCall n d s).replies = s.replies := by
  unfold clearCall
  split <;> rfl

/-- R30: the line after its reset, a pending mode taken. -/
theorem lineReset_eq (n : LineId) (s : State) : lineReset n s = (clearCall n .idle s).modLine n fun l =>
    { l with
      config := l.config.taken
      filter := Filter.reset
      emission := Emission.idle
      capture := none
      events := 0
      rejectReason := none
      quality := Quality.reset } := by
  rw [lineReset, becomeIdle_noFault (by rw [line_modLine_self]; exact line_clearCall_self n _ s) (by rw [line_modLine_self]; rfl),
    modLine_modLine]

theorem taken_eq (c : LineConfig) : c.taken = match c.pendingMode with
    | none => c
    | some m => { c with mode := m, pendingMode := none } := by
  cases h : c.pendingMode
  · exact taken_of_none h
  · simp [LineConfig.taken, h]

/-- Settles O50. -/
theorem lineRecordsAreReadAndReset : Obligations.LineRecordsAreReadAndReset := by
  refine ⟨fun s tag n ready => ⟨?_, ?_, fun clears => ?_, fun holds => ?_⟩, fun s tag b ready outside => ⟨?_, ?_, ?_⟩⟩
  · rw [exec_lineReset_ready ready tag (by simp), reqLineReset, withLine_octet, lineReset_eq]
    refine congrArg _ ((replied_ackWith _ _ _ ((modLine_replies _ _ _).trans (replies_clearCall n .idle s))).trans ?_)
    simp only [taken_eq]
    rfl
  · rw [exec_captureRead_ready ready tag (by simp), reqCaptureRead, withLine_octet]
    exact congrArg _ (replied_ackWith _ _ _ rfl)
  · rw [exec_qualityRead_ready ready tag (by simp), reqQualityRead, withLine_octet, clears]
    exact congrArg _ (replied_ackWith _ _ _ rfl)
  · rw [exec_qualityRead_ready ready tag (by simp), reqQualityRead, withLine_octet, holds]
    exact congrArg _ (replied_ackWith _ _ _ rfl)
  · rw [exec_lineReset_ready ready tag (by simp), reqLineReset, withLine_outside outside, replied_refuseWith]
  · rw [exec_captureRead_ready ready tag (by simp), reqCaptureRead, withLine_outside outside, replied_refuseWith]
  · rw [exec_qualityRead_ready ready tag (by simp), reqQualityRead, withLine_outside outside, replied_refuseWith]

end Sys2Proof.Machine
end

section
/-! PROOF. O49: LINE-CONFIG writes the settings of a line and then handles its mode. -/

namespace Sys2Proof.Machine

/-! ## The settings -/

theorem modeOfCode_code (m : Mode) : modeOfCode m.code = some m := by cases m <;> rfl

theorem meterOfCode_code (m : MeterMode) : meterOfCode m.code = some m := by cases m <;> rfl

theorem modeOfCode_unnamed {b : Byte} (above : 2 < b.toNat) : modeOfCode b = none := by
  revert b
  decide

theorem meterOfCode_unnamed {b : Byte} (above : 1 < b.toNat) : meterOfCode b = none := by
  revert b
  decide

/-- R24, R174: END_OVERRIDE is absent at 0 and clamped otherwise. -/
theorem overrideOf_eq (v : Nat) : overrideOf v = if v = 0 then none else some (max 30 (min 1000 v)) := by
  rw [overrideOf, clamp_eq_max_min (by decide)]

/-- R24, R166: an END_OVERRIDE is clamped exactly where it is present and outside 30 to 1000. -/
theorem overrideOf_clamps (v : Nat) : (overrideOf v).getD 0 ≠ v ↔ v ≠ 0 ∧ (v < 30 ∨ 1000 < v) := by
  rw [overrideOf_eq]
  split
  · simp [*]
  · simp only [Option.getD_some]
    omega

/-- R24, R29, R157, R160: what the writing of the settings comes to. -/
theorem writeSettings_eq (n : LineId) (x : LineSettings) (s : State) : writeSettings n x s =
    { (s.modLine n fun l =>
        { l with
          config := ⟨l.config.mode, l.config.pendingMode, x.profile, x.eventMask, x.lineMute, x.endOverride, x.meterMode⟩
          quality := if l.config.meterMode = x.meterMode then l.quality else { l.quality with extremes := none } }) with
      attention := s.attention || ((s.line n).events &&& (s.line n).config.eventMask == 0 &&
        (s.line n).events &&& x.eventMask != 0) } := by
  simp [writeSettings, State.modLineMapped, Line.inMap, bne]

theorem line_writeSettings (n : LineId) (x : LineSettings) (s : State) :
    ((writeSettings n x s).line n).config.mode = (s.line n).config.mode ∧
    ((writeSettings n x s).line n).decoder = (s.line n).decoder ∧ ((writeSettings n x s).line n).filter = (s.line n).filter := by
  simp [writeSettings]

/-! ## The mode -/

theorem requestMode_parked {n : LineId} {s : State} (same : (s.line n).config.mode = .parked) :
    requestMode n .parked s = (s, false) := by
  simp [requestMode, same]

theorem requestMode_parks {n : LineId} {s : State} (other : (s.line n).config.mode ≠ .parked) :
    requestMode n .parked s = (park n s, false) := by
  simp [requestMode, other]

theorem requestMode_same {n : LineId} {m : Mode} {s : State} (active : m ≠ .parked) (same : (s.line n).config.mode = m) :
    requestMode n m s = (s.modLine n fun l => { l with config := { l.config with pendingMode := none } }, false) := by
  simp [requestMode, active, same]

theorem requestMode_idle {n : LineId} {m : Mode} {s : State} (active : m ≠ .parked) (other : (s.line n).config.mode ≠ m)
    (idle : (s.line n).isIdle = true) : requestMode n m s = (enterMode n m s, false) := by
  simp [requestMode, active, other, idle]

theorem requestMode_deferred {n : LineId} {m : Mode} {s : State} (active : m ≠ .parked) (other : (s.line n).config.mode ≠ m)
    (busy : (s.line n).isIdle = false) :
    requestMode n m s = (s.modLine n fun l => { l with config := { l.config with pendingMode := some m } }, true) := by
  simp [requestMode, active, other, busy]

/-- R27: when a line is idle. -/
theorem isIdle_iff (l : Line) : l.isIdle = true ↔ l.config.mode = .parked ∨ l.config.mode = .convert ∧ l.decoder = .idle ∨
    l.config.mode = .pass ∧ l.filter.loop = .opened := by
  unfold Line.isIdle
  cases l.config.mode <;> simp

/-! ## The request -/

/-- The settings that the octets of an accepted LINE-CONFIG carry (R24, R174). -/
def carriedSettings (p : Fin 8) (hi lo f vh vl : Byte) (meter : MeterMode) : LineSettings :=
  ⟨p, (hi ++ lo).extractLsb' 0 9, f.getLsbD 0, overrideOf (number2 vh vl), meter⟩

/-- R24: the settings are written, and then the mode is handled. -/
theorem reqLineConfig_named (n : LineId) (m : Mode) (p : Fin 8) (hi lo f vh vl : Byte) (meter : MeterMode) {s t : State}
    {deferred : Bool} (handled : requestMode n m (writeSettings n (carriedSettings p hi lo f vh vl meter) s) = (t, deferred)) :
    reqLineConfig [octet n.val, m.code, octet p.val, hi, lo, f, vh, vl, meter.code] s =
      ⟨t, .ack (number2 vh vl ≠ 0 ∧ (number2 vh vl < 30 ∨ 1000 < number2 vh vl)) deferred
        (.lineConfig n (t.line n).config), false⟩ := by
  have profile : (octet p.val).toNat = p.val := toNat_octet_of_lt (p.isLt.trans (by decide))
  simp only [carriedSettings, BitVec.getLsbD_eq_getElem, Nat.zero_lt_succ] at handled
  simp [reqLineConfig, lineOf_octet, modeOfCode_code, meterOfCode_code, numAt, num2At, flagAt, profile, handled,
    overrideOf_clamps]

theorem exec_lineConfig_named {s : State} (ready : s.ready) (tag : Byte) (n : LineId) (m : Mode) (p : Fin 8)
    (hi lo f vh vl : Byte) (meter : MeterMode) {t : State} {deferred : Bool}
    (handled : requestMode n m (writeSettings n (carriedSettings p hi lo f vh vl meter) s) = (t, deferred)) :
    exec (.lineConfig tag [octet n.val, m.code, octet p.val, hi, lo, f, vh, vl, meter.code]) s = .next (t.replied tag 0x05
      (.ack (number2 vh vl ≠ 0 ∧ (number2 vh vl < 30 ∨ 1000 < number2 vh vl)) deferred (.lineConfig n (t.line n).config))) := by
  have request := reqLineConfig_named n m p hi lo f vh vl meter handled
  have kept : t.replies = s.replies := by
    have h := ((closedRequest_replies_tx s.replies s.tx).reqLineConfig
      [octet n.val, m.code, octet p.val, hi, lo, f, vh, vl, meter.code] ⟨rfl, rfl⟩).1
    rwa [request] at h
  rw [exec_lineConfig_ready ready tag (by simp), request]
  simp [Executed.replied, State.replied, kept]

/-- R24, R174: RANGE for the line or the profile. -/
theorem reqLineConfig_range {ps : List Byte} (whole : ps.length = 9) (outside : 48 ≤ numAt ps 0 ∨ 8 ≤ numAt ps 2) (s : State) :
    reqLineConfig ps s = refuseWith s .range := by
  rcases line : lineOf (ps.getD 0 0) with _ | n
  · simp only [reqLineConfig, whole, line, ne_eq, not_true_eq_false, if_false]
  · have profile : ¬ numAt ps 2 < 8 := fun inside => by
      rcases outside with outside | outside
      · rw [lineOf_none outside] at line
        cases line
      · omega
    simp only [reqLineConfig, whole, line, profile, ne_eq, not_true_eq_false, if_false, dif_neg, not_false_eq_true]

/-- R24, R174: VALUE for the mode or the METER_MODE. -/
theorem reqLineConfig_value {ps : List Byte} (whole : ps.length = 9) (line : numAt ps 0 < 48) (profile : numAt ps 2 < 8)
    (unnamed : 2 < numAt ps 1 ∨ 1 < numAt ps 8) (s : State) : reqLineConfig ps s = refuseWith s .value := by
  have inside : lineOf (ps.getD 0 0) = some ⟨numAt ps 0, line⟩ := dif_pos line
  simp only [reqLineConfig, whole, inside, profile, ne_eq, not_true_eq_false, if_false, dif_pos]
  rcases unnamed with mode | meter
  · rw [modeOfCode_unnamed mode]
  · rw [meterOfCode_unnamed meter]
    cases modeOfCode (ps.getD 1 0) <;> rfl

/-- Settles O49. -/
theorem lineConfigurationIsWritten : Obligations.LineConfigurationIsWritten := by
  refine ⟨fun s u tag hi lo f vh vl n m p meter clamped cut ready cuts clamps written => ?_, fun s tag ps ready whole => ⟨?_, ?_⟩⟩
  · have settings : u = writeSettings n (carriedSettings p hi lo f vh vl meter) s := by
      rw [written, cuts, ← overrideOf_eq, writeSettings_eq]
      rfl
    obtain ⟨mode, decoder, filter⟩ := line_writeSettings n (carriedSettings p hi lo f vh vl meter) s
    have answer := fun {t : State} {deferred : Bool} =>
      exec_lineConfig_named ready tag n m p hi lo f vh vl meter (t := t) (deferred := deferred)
    have idle := isIdle_iff (u.line n)
    rw [← settings] at mode decoder filter answer
    rw [mode, decoder, filter] at idle
    subst clamps
    refine ⟨fun parked same => ?_, fun active same t e => ?_, fun parked other t e => ?_, fun active other rests t e => ?_,
      fun busy t e => ?_⟩
    · subst parked
      exact answer (requestMode_parked (mode.trans same))
    · exact answer ((requestMode_same active (mode.trans same)).trans (by rw [e]))
    · subst parked
      exact answer ((requestMode_parks (mode ▸ other)).trans (by rw [e, park]))
    · exact answer ((requestMode_idle active (mode ▸ other) (idle.2 rests)).trans (by rw [e, enterMode]))
    · have waits : m ≠ .parked ∧ (s.line n).config.mode ≠ m ∧ (u.line n).isIdle = false := by
        rw [← Bool.not_eq_true, idle]
        rcases busy with ⟨convert, rfl, call⟩ | ⟨pass, rfl, closed⟩
        · simp [convert, call]
        · simp [pass, closed]
      obtain ⟨active, other, notIdle⟩ := waits
      exact answer ((requestMode_deferred active (mode ▸ other) notIdle).trans (by rw [e]))
  · intro outside
    rw [exec_lineConfig_ready ready tag (by omega), reqLineConfig_range whole outside, replied_refuseWith]
  · intro line profile unnamed
    rw [exec_lineConfig_ready ready tag (by omega), reqLineConfig_value whole line profile unnamed, replied_refuseWith]

end Sys2Proof.Machine
end

section
/-! PROOF. O23: one L sample and one G sample at the Loop Filter. O28: the sixteenth contrary fault sample. -/

namespace Sys2Proof.Machine

/-! ## One L sample -/

/-- R33: a sample that does not agree with the stable state shows the other one. -/
theorem ofSample_of_contrary {l : Bool} {now : LoopState} (h : LoopState.ofSample l ≠ now) : LoopState.ofSample l = now.other := by
  cases l <;> cases now
  case false.closed | true.opened => rfl
  all_goals exact absurd rfl h

/-- R34: which protection count a run is held against. -/
theorem protection_eq (f : Filter) (p : Profile) : f.protection p = if f.loop = .closed then p.openProt else p.closeProt := by
  unfold Filter.protection
  cases f.loop <;> rfl

/-- R34: a run that stays below the protection count. -/
theorem contrary_runs {f : Filter} {protection : Nat} (short : f.run + 1 < protection) :
    f.contrary protection = ({ f with age := min 65535 (f.age + 1), run := f.run + 1 }, .nothing) := if_pos short

/-- R34, R39: a run that reaches the protection count, or that a lowered count finds beyond it. -/
theorem contrary_turns {f : Filter} {protection : Nat} (reached : protection ≤ f.run + 1) :
    f.contrary protection = (f.turned, .confirmed f.loop.other f.endedLength) := if_neg (Nat.not_lt_of_le reached)

theorem takeLoop_of_agrees {f : Filter} {l : Bool} (agrees : LoopState.ofSample l = f.loop) (p : Profile) :
    f.takeLoop p l = f.agree := if_pos agrees

theorem takeLoop_of_contrary {f : Filter} {l : Bool} (contrary : LoopState.ofSample l ≠ f.loop) (p : Profile) :
    f.takeLoop p l = f.contrary (f.protection p) := if_neg contrary

/-- Settles O23, by the branches of R34, R35 and R40. -/
theorem samplesAreFiltered : Obligations.SamplesAreFiltered := by
  refine ⟨fun f p l => ⟨fun agrees => ?_, fun contrary short => ?_, fun contrary reached => ?_⟩,
    fun f g => ⟨takeFault_agreeing, fun contrary few => ?_, fun contrary due => ?_⟩⟩
  · exact takeLoop_of_agrees agrees p
  · rw [takeLoop_of_contrary contrary, contrary_runs (by rwa [protection_eq])]
  · rw [takeLoop_of_contrary contrary, contrary_turns (by rwa [protection_eq]), ofSample_of_contrary contrary]
    rfl
  · exact takeFault_contrary contrary (Nat.lt_of_succ_lt_succ few)
  · exact takeFault_changes contrary (Nat.le_of_succ_le_succ due)

/-! ## The G sample that changes F -/

/-- R35, R41: the L sample of FAULT_STATE_CHANGE leaves F and the fault run to the G sample. -/
theorem filter_loopSample_stable (n : LineId) (s : State) :
    ((loopSample n (s.line n).filter.stableSample s).line n).filter = (s.line n).filter.agree.1 := by
  rw [filter_loopSample, takeLoop_agreeing]

/-- The state with the line's F changed and its fault run emptied (R40). -/
def State.faultTurned (s : State) (n : LineId) (f : Bool) : State :=
  s.modLine n fun l => { l with filter := { l.filter with fault := f, faultRun := 0 } }

@[simp] theorem line_faultTurned (s : State) (n : LineId) (f : Bool) :
    (s.faultTurned n f).line n = { s.line n with filter := { (s.line n).filter with fault := f, faultRun := 0 } } :=
  line_modLine_self s n _

/-- R40, R41: a G sample that completes the contrary run changes F, and the exit of a decoder in FAULT is tested. -/
theorem faultSample_completes {n : LineId} {s : State} {g : Bool} (contrary : g ≠ (s.line n).filter.fault)
    (due : 15 ≤ (s.line n).filter.faultRun) : faultSample n g s = exitFault n (faultChanged n g (s.faultTurned n g)) := by
  rw [faultSample_changed (takeFault_changes contrary due), setFilter_eq]
  exact congrArg (fun t => exitFault n (faultChanged n g t)) (modLine_congr s n rfl)

/-- R40, R41: FAULT_STATE_CHANGE changes F in the state that its L sample left. -/
theorem exec_faultStateChange_completes {n : LineId} {s u : State} (up : s.lu.up = true) (due : 15 ≤ (s.line n).filter.faultRun)
    (after : u = loopSample n (s.line n).filter.stableSample s) :
    exec (.faultStateChange n) s =
      .next (exitFault n (faultChanged n (!(s.line n).filter.fault) (u.faultTurned n (!(s.line n).filter.fault)))) := by
  have filter : (u.line n).filter = (s.line n).filter.agree.1 := by rw [after, filter_loopSample_stable]
  rw [exec_faultStateChange_due up due, ← after, faultSample_completes]
  · rw [filter]
    exact Bool.not_ne_self _
  · rw [filter]
    exact due

/-- R67, R68: F becoming 1 lets no decoder out of FAULT. -/
theorem exitFault_faultOn (n : LineId) (s : State) :
    exitFault n (faultChanged n true (s.faultTurned n true)) =
      if (s.line n).config.mode = .convert then clearCall n .fault (latch n .faultOn (s.faultTurned n true))
      else latch n .faultOn (s.faultTurned n true) := by
  rw [exitFault_stays (.inr (.inl (by rw [filter_faultChanged, line_faultTurned]))), faultChanged_true, line_faultTurned]

/-- R28, R68: F becoming 0 lets a decoder in FAULT out where the loop is OPEN, and the line takes its pending mode. -/
theorem exitFault_faultOff (n : LineId) (s : State) :
    exitFault n (faultChanged n false (s.faultTurned n false)) =
      if (s.line n).decoder = .fault ∧ (s.line n).filter.loop = .opened then
        (latch n .faultOff (s.faultTurned n false)).modLine n fun l => { l with decoder := .idle, config := l.config.taken }
      else latch n .faultOff (s.faultTurned n false) := by
  simp only [faultChanged_false, exitFault_eq, decoder_latch, filter_latch, line_faultTurned, true_and]

/-- Settles O28. -/
theorem faultChanges : Obligations.FaultChanges := by
  intro n s u up due after
  have completes := exec_faultStateChange_completes up due after
  refine ⟨fun clear => ?_, fun set => ?_⟩
  · rw [completes, clear]
    exact congrArg _ (exitFault_faultOn n u)
  · rw [completes, set]
    exact congrArg _ (exitFault_faultOff n u)

end Sys2Proof.Machine
end

section
/-! PROOF. O6: the laws of the modes. They speak of one line at a time, and every update of a line keeps them. -/

namespace Sys2Proof.Machine

/-- R45, R27, R28: the laws of the modes, of one line. -/
def Line.modeLawful (l : Line) : Prop :=
  (l.config.mode ≠ .convert → l.decoder = .idle) ∧
    ∀ m, l.config.pendingMode = some m → m ≠ .parked ∧ m ≠ l.config.mode ∧ l.config.mode ≠ .parked

theorem modesLawful_iff (s : State) : s.modesLawful ↔ ∀ n, (s.line n).modeLawful := Iff.rfl

/-- An open call, a seizure or FAULT shows that the line is in CONVERT. -/
theorem Line.modeLawful.convert {l : Line} (h : l.modeLawful) (busy : l.decoder ≠ .idle) : l.config.mode = .convert :=
  Decidable.by_contra fun other => busy (h.1 other)

/-- R26 to R28: a mode is entered with the decoder in IDLE or, in CONVERT, in FAULT; a mode is made to wait only where it differs. -/
theorem modeLawful_lineStep {l l' : Line} (h : LineStep l l') (lawful : l.modeLawful) : l'.modeLawful := by
  have ⟨decoder, pending⟩ := lawful
  cases h with
  | keep sameDecoder sameMode samePending _ _ _ => exact ⟨by rwa [sameMode, sameDecoder], by rwa [sameMode, samePending]⟩
  | noCall _ _ _ mode => exact ⟨mode.resolve_right, pending⟩
  | call before _ _ => exact ⟨fun other => absurd (lawful.convert (by simp [before])) other, pending⟩
  | enter m _ _ => exact ⟨fun other => if_neg fun h => other h.1, fun _ h => nomatch h⟩
  | park before => exact ⟨fun _ => before, fun _ h => nomatch h⟩
  | cancel => exact ⟨decoder, fun _ h => nomatch h⟩
  | defer m before notParked other =>
    refine ⟨decoder, fun m' waits => ?_⟩
    cases waits
    exact ⟨notParked, other, before⟩

theorem modesLawful_modLine {s : State} {n : LineId} {f : Line → Line} (p : s.modesLawful)
    (own : (f (s.line n)).modeLawful) : (s.modLine n f).modesLawful := by
  rw [modesLawful_iff] at p ⊢
  intro m
  rw [line_modLine]
  split
  · exact own
  · exact p m

theorem lineClosed_modesLawful (n : LineId) : LineClosed n State.modesLawful where
  attention _ p := p
  line _ p step := modesLawful_modLine p (modeLawful_lineStep step (p n))
  filter _ p step := modesLawful_modLine p (modeLawful_lineStep step (p n) :)
  opening {s} p seizing := by
    have convert : (s.line n).config.mode = .convert := Line.modeLawful.convert (p n) (by simp [seizing])
    exact modesLawful_modLine (s := State.bindPages _ _ _) p ⟨fun other => absurd convert other, (p n).2⟩
  clear {s} d p _ cause := by
    have after (l : Line) (config : l.config = (s.line n).config) (decoder : l.decoder = d) : l.modeLawful := by
      refine ⟨fun other => ?_, by rw [config]; exact (p n).2⟩
      rw [config] at other
      rw [decoder]
      rcases cause with idle | same | convert
      · exact idle
      · exact same.trans ((p n).1 other)
      · exact absurd convert other
    unfold clearCall
    split
    · exact modesLawful_modLine (s := State.unbindPages _ _ _) p (after _ rfl rfl)
    all_goals exact modesLawful_modLine p (after _ rfl rfl)

theorem closed_modesLawful : Closed State.modesLawful where
  on := lineClosed_modesLawful
  small p e := by rw [e]; exact p
  config _ p _ := p
  profile _ _ _ p _ := p
  trans _ _ p _ _ := p
  code _ _ p _ _ := p
  tones _ p := p
  management p e := by rw [e]; exact p
  replies _ p _ := p
  ports p e := by rw [e]; exact p
  paced p := p
  carried p := p
  voice n _ p := modesLawful_modLine p (p n)
  lu _ p _ := p
  luLock p := p
  luLoss p := p
  luFrame _ p _ := p
  sd _ p _ := p
  sdLock p := p
  sdLoss p := p
  sdFrame _ p _ := p
  reset _ := reset_modesLawful

/-- Settles O6: every update of a line keeps the laws of its mode, and no other update touches them. -/
theorem modesStayLawful : Obligations.ModesStayLawful := fun _ _ => closed_modesLawful.step fun _ _ p => p

end Sys2Proof.Machine
end

section
/-! PROOF. O25, O26, O27, O30: the breaks. A confirmed open begins one; the confirmed close that ends it acts by its class (R53). -/

namespace Sys2Proof.Machine

/-! ## Step 1 of R47 -/

@[simp] theorem profileOf_turned (s : State) (n : LineId) : (s.turned n).profileOf n = s.profileOf n := by
  rw [← setFilter_turned, profileOf_setFilter]

/-- What the decoder takes on after the filter turned, as one change of the line. -/
theorem setDecoder_turned (s : State) (n : LineId) (d : Decoder) :
    (s.turned n).setDecoder n d = s.modLine n fun l => { l with filter := l.filter.turned, decoder := d } := by
  rw [State.turned, setDecoder_eq, modLine_modLine]

/-- R36: after a transition the measured length is that of the run that confirmed it. -/
theorem measured_turned (f : Filter) : f.turned.measured = f.run + 1 := rfl

/-- R47: a confirmed transition of a CONVERT line is the decoder's input, and steps 2 and 3 follow. -/
theorem exec_loopTransition_convert {n : LineId} {s : State} {now : LoopState} {first : Taken} (up : s.lu.up = true)
    (confirms : s.confirms n) (convert : (s.line n).config.mode = .convert) (turns : (s.line n).filter.loop.other = now)
    (input : takeTransition n now (s.line n).filter.endedLength (s.turned n) = first) :
    exec (.loopTransition n) s = .next (faultSample n (s.line n).filter.fault (laterSteps n first)) := by
  rw [exec_loopTransition_after up confirms turns rfl, consumeLoop_convert (by rwa [line_turned]), takeLoopResult, input]

/-- The line's break that began from `f`, in the call `c`, ends at the next contrary sample (R53). -/
structure State.endsBreak (s : State) (n : LineId) (f : DigitPhase) (c : Call) : Prop where
  up : s.lu.up = true
  confirms : s.confirms n
  convert : (s.line n).config.mode = .convert
  opened : (s.line n).filter.loop = .opened
  call : (s.line n).decoder = .inCall (.opened f) c

/-- R53: the confirmed close in OPEN ends the break. -/
theorem State.endsBreak.exec {s : State} {n : LineId} {f : DigitPhase} {c : Call} (h : s.endsBreak n f c) {first : Taken}
    (close : closeBreak n f c (s.line n).filter.endedLength (s.turned n) = first) :
    exec (.loopTransition n) s = .next (faultSample n (s.line n).filter.fault (laterSteps n first)) :=
  exec_loopTransition_convert h.up h.confirms h.convert (now := .closed) (by rw [h.opened]; rfl)
    (by simp [takeTransition, h.call, close])

/-! ## Steps 2 and 3 of R47 in a call -/

/-- R47: where neither the clear timer nor the digit-end timer is due, a call has no timer that expires. -/
theorem takeTimers_notDue {n : LineId} {s : State} {st : CallState} {c : Call} (call : (s.line n).decoder = .inCall st c)
    (clear : clearDue n s = false) (digit : digitEndDue n s = false) : takeTimers n s = ⟨s, false⟩ := by
  simp [takeTimers, seizeDue, call, clear, digit]

/-- R47, R63: a call with the loop closed goes on, its dial-idle count included, where no threshold is reached. -/
theorem laterSteps_goesOn {n : LineId} {s : State} {p : DigitPhase} {c : Call} (call : (s.line n).decoder = .inCall (.closed p) c)
    (early : p = .offhook ∨ c.digitDone (s.line n).filter.measured = false) : laterSteps n ⟨s, false⟩ = takeDialIdle n s := by
  have clear : clearDue n s = false := by simp [clearDue, call]
  have digit : digitEndDue n s = false := by
    cases p with
    | offhook => simp [digitEndDue, call]
    | indigit | discard => simpa [digitEndDue, call] using early
  rw [laterSteps_of_timers (takeTimers_notDue call clear digit), if_neg (by simp)]

/-- R62: a discard that fills the threshold in force ends, and the dial-idle count takes the arrival. -/
theorem laterSteps_discardDone {n : LineId} {s : State} {c : Call} (call : (s.line n).decoder = .inCall (.closed .discard) c)
    (done : c.digitDone (s.line n).filter.measured = true) :
    laterSteps n ⟨s, false⟩ = takeDialIdle n (s.setDecoder n (.inCall (.closed .offhook) c)) := by
  rw [laterSteps_of_timers ((takeTimers_discard call).trans (if_pos done)), if_neg (by simp)]

/-- R76: without a threshold in force no digit ends. -/
theorem digitDone_none {c : Call} (h : c.threshold = none) (measured : Nat) : c.digitDone measured = false := by
  simp [Call.digitDone, h]

/-- R76: the comparison with the threshold in force. -/
theorem digitDone_some {c : Call} {threshold : Nat} (h : c.threshold = some threshold) (measured : Nat) :
    c.digitDone measured = decide (threshold ≤ c.makeAcc + measured) := by
  simp [Call.digitDone, h]

/-! ## The state of a call that its digits, flashes and reports keep -/

/-- Which of the states with a call record the decoder is in. -/
def Decoder.callState : Decoder → Option CallState
  | .inCall st _ => some st
  | .idle | .seizing | .fault => none

theorem callState_eq_some {d : Decoder} {st : CallState} (h : d.callState = some st) : ∃ c, d = .inCall st c := by
  cases d <;> simp_all [Decoder.callState]

@[simp] theorem callState_mapCall (d : Decoder) (f : Call → Call) : (d.mapCall f).callState = d.callState := by cases d <;> rfl

@[simp] theorem callState_modCall (n : LineId) (f : Call → Call) (s : State) :
    ((s.modCall n f).line n).decoder.callState = (s.line n).decoder.callState := by simp [modCall_eq]

@[simp] theorem decoder_bring (n : LineId) (items : List Item) (s : State) :
    ((bring n items s).line n).decoder = (s.line n).decoder := by
  unfold bring
  dsimp only
  split <;> simp

theorem callState_resolve (n : LineId) (c : Call) (f : Option Nat) (extra : List Item) (s : State) :
    ((resolve n c f extra s).line n).decoder.callState = (s.line n).decoder.callState := by
  unfold resolve
  dsimp only
  rw [decoder_bring, callState_modCall]
  split <;> simp

theorem callState_screenSymbol (n : LineId) (sym : Symbol) (c : Call) (s : State) :
    ((screenSymbol n sym c s).line n).decoder.callState = (s.line n).decoder.callState := by
  unfold screenSymbol
  dsimp only
  split
  · simp
  · rw [callState_resolve, callState_modCall]
  · rw [callState_resolve, callState_modCall]

theorem callState_handSymbol (n : LineId) (sym : Symbol) (s : State) :
    ((handSymbol n sym s).line n).decoder.callState = (s.line n).decoder.callState := by
  unfold handSymbol
  split
  · rfl
  · split
    · exact callState_screenSymbol n sym _ s
    · rw [decoder_bring]

theorem callState_handFlash (n : LineId) (s : State) :
    ((handFlash n s).line n).decoder.callState = (s.line n).decoder.callState := by
  unfold handFlash
  split
  · rfl
  · split
    · exact callState_resolve n _ _ _ s
    · rw [decoder_bring]

theorem callState_handTranslation (n : LineId) (v : TransValue) (s : State) :
    ((handTranslation n v s).line n).decoder.callState = (s.line n).decoder.callState := by
  cases v with
  | symbol sym => exact callState_handSymbol n sym s
  | ignore => rfl
  | flash => exact callState_handFlash n s
  | reject => simp [handTranslation]

@[simp] theorem decoder_endWindow (n : LineId) (s : State) : ((endWindow n s).line n).decoder = (s.line n).decoder := by
  unfold endWindow
  dsimp only
  split <;> simp

@[simp] theorem decoder_reportDigit (n : LineId) (r : DigitReport) (s : State) :
    ((reportDigit n r s).line n).decoder = (s.line n).decoder := by
  unfold reportDigit
  dsimp only
  split <;> simp [applyReport]

/-- R60: the digit that completes leaves the decoder in OFFHOOK. -/
theorem callState_completeDigit (n : LineId) (c : Call) (s : State) :
    ((completeDigit n c s).line n).decoder.callState = some (.closed .offhook) := by
  unfold completeDigit
  rw [decoder_reportDigit, callState_handTranslation, decoder_setDecoder]
  rfl

/-! ## O25: breaks that begin, glitches and indeterminate breaks -/

/-- R52, R72: the closed length that a break ends joins the make accumulator of a digit or a discard. -/
theorem startBreak_turned (n : LineId) (f : DigitPhase) (c : Call) (s : State) :
    startBreak n f c (s.line n).filter.endedLength (s.turned n) = s.modLine n fun l =>
      { l with
        filter := l.filter.turned
        decoder := .inCall (.opened f)
          (if f = .offhook then c else { c with makeAcc := min 65535 (c.makeAcc + l.filter.endedLength) }) } := by
  cases f <;> exact (setDecoder_turned s n _).trans (modLine_congr s n rfl)

/-- R54: a glitch is counted, and the decoder is back where the break began. -/
theorem glitchBreak_turned (n : LineId) (f : DigitPhase) (c : Call) (d : Nat) (s : State) :
    glitchBreak n f c d (s.turned n) = s.modLine n fun l =>
      { l with
        filter := l.filter.turned
        decoder := .inCall (.closed f) (c.addMake d)
        quality := { l.quality with current := { l.quality.current with glitches := min 65535 (l.quality.current.glitches + 1) } } } := by
  simp only [glitchBreak, reportGlitch, modQuality_eq, State.turned, setDecoder_eq, modLine_modLine]
  rfl

/-- R53, R54: the close of a break shorter than PULSE_MIN. -/
theorem State.endsBreak.exec_glitch {s : State} {n : LineId} {f : DigitPhase} {c : Call} (h : s.endsBreak n f c)
    (short : (s.line n).filter.endedLength < (s.profileOf n).pulseMin * 8) :
    Machine.exec (.loopTransition n) s = .next (faultSample n (s.line n).filter.fault
      (laterSteps n ⟨glitchBreak n f c (s.line n).filter.endedLength (s.turned n), false⟩)) :=
  h.exec (closeBreak_glitch n f c (by rwa [profileOf_turned]))

/-- R53, R58: a break longer than PULSE_MAX and shorter than FLASH_MIN is indeterminate. -/
theorem closeBreak_indeterminate (n : LineId) (f : DigitPhase) (c : Call) {d : Nat} {s : State}
    (notGlitch : (s.profileOf n).pulseMin * 8 ≤ d) (notPulse : (s.profileOf n).pulseMax * 8 < d)
    (notFlash : d < (s.profileOf n).flashMin * 8) : closeBreak n f c d s = ⟨indeterminateBreak n f c s, false⟩ := by
  simp [closeBreak, classifyBreak, Nat.not_lt.mpr notGlitch, Nat.not_le.mpr notPulse, notFlash]

/-- R58: every indeterminate break returns to OFFHOOK, the call record as it was. -/
theorem decoder_indeterminateBreak (n : LineId) (f : DigitPhase) (c : Call) (s : State) :
    ((indeterminateBreak n f c s).line n).decoder = .inCall (.closed .offhook) c := by
  cases f <;> simp [indeterminateBreak]

/-- Settles O25. -/
theorem breaksThatBeginOrCountNoPulse : Obligations.BreaksThatBeginOrCountNoPulse := by
  refine ⟨fun n s f c up confirms convert closed call => ?_, ?_, ?_⟩
  · have begins : takeTransition n .opened (s.line n).filter.endedLength (s.turned n) =
        ⟨startBreak n f c (s.line n).filter.endedLength (s.turned n), false⟩ := by simp [takeTransition, call]
    rw [exec_loopTransition_convert up confirms convert (by rw [closed]; rfl) begins, startBreak_turned]
  · intro n s u f c d up confirms convert opened call short hd hu
    have after : glitchBreak n f c (s.line n).filter.endedLength (s.turned n) = u := by
      rw [hu, hd, glitchBreak_turned]
      rfl
    have line : u.line n = _ := (congrArg (State.line · n) hu).trans (line_modLine_self s n _)
    have decoder : (u.line n).decoder = .inCall (.closed f) d := by rw [line]
    have sameThreshold : d.threshold = c.threshold := by rw [hd]
    rw [State.endsBreak.exec_glitch ⟨up, confirms, convert, opened, call⟩ short, after]
    refine ⟨fun free => ?_, fun threshold inForce => ?_⟩
    · rw [laterSteps_goesOn decoder (free.imp_right fun none_ => digitDone_none (sameThreshold.trans none_) _)]
    have compared : d.digitDone (u.line n).filter.measured = decide (threshold ≤ d.makeAcc + ((s.line n).filter.run + 1)) := by
      rw [digitDone_some (sameThreshold.trans inForce), line, measured_turned]
    refine ⟨fun early => ?_, fun filled => ?_⟩
    · rw [laterSteps_goesOn decoder (.inr (compared.trans (decide_eq_false (Nat.not_le.mpr early))))]
    have done := compared.trans (decide_eq_true filled)
    refine ⟨?_, ?_⟩
    · rintro rfl
      rw [laterSteps_digitDone decoder done]
    · rintro rfl
      rw [laterSteps_discardDone decoder done]
  · intro n s f c up confirms convert opened call notGlitch notPulse notFlash
    have close := closeBreak_indeterminate n f c (d := (s.line n).filter.endedLength) (s := s.turned n) (by rwa [profileOf_turned])
      (by rwa [profileOf_turned]) (by rwa [profileOf_turned])
    rw [State.endsBreak.exec ⟨up, confirms, convert, opened, call⟩ close,
      laterSteps_goesOn (decoder_indeterminateBreak n f c _) (.inl rfl)]
    refine congrArg (fun t => Host.Outcome.next (faultSample n _ (takeDialIdle n t))) ?_
    have back := setDecoder_turned s n (.inCall (.closed .offhook) c)
    cases f with
    | indigit => exact congrArg (fun t => reportDigit n _ (latchReject n .malformed t)) back
    | offhook => exact congrArg (reportGlitch n) back
    | discard => exact back

/-! ## O26, O27: pulses -/

/-- R53: a break from PULSE_MIN to PULSE_MAX is a pulse. -/
theorem closeBreak_pulse (n : LineId) (f : DigitPhase) (c : Call) {d : Nat} {s : State}
    (notGlitch : (s.profileOf n).pulseMin * 8 ≤ d) (short : d ≤ (s.profileOf n).pulseMax * 8) :
    closeBreak n f c d s = ⟨pulseBreak n f c d s, false⟩ := by
  simp [closeBreak, classifyBreak, Nat.not_lt.mpr notGlitch, short]

/-- R53, R55 to R57: the close of a break from PULSE_MIN to PULSE_MAX. -/
theorem State.endsBreak.exec_pulse {s t : State} {n : LineId} {f : DigitPhase} {c : Call} (h : s.endsBreak n f c)
    (notGlitch : (s.profileOf n).pulseMin * 8 ≤ (s.line n).filter.endedLength)
    (short : (s.line n).filter.endedLength ≤ (s.profileOf n).pulseMax * 8)
    (pulse : pulseBreak n f c (s.line n).filter.endedLength (s.turned n) = t) :
    Machine.exec (.loopTransition n) s = .next (faultSample n (s.line n).filter.fault (laterSteps n ⟨t, false⟩)) := by
  rw [← pulse]
  exact h.exec (closeBreak_pulse n f c (by rwa [profileOf_turned]) (by rwa [profileOf_turned]))

/-- R74: whether the pulse before counts as distorted, its period not being 0. -/
theorem toNat_ratioDistorted {c : Call} (period : 0 < c.lastBreak + c.makeAcc) (p : Profile) : (c.ratioDistorted p).toNat =
    if 100 * c.lastBreak / (c.lastBreak + c.makeAcc) < p.ratioMin ∨ p.ratioMax < 100 * c.lastBreak / (c.lastBreak + c.makeAcc)
    then 1 else 0 := by
  have ratio : c.ratio = 100 * c.lastBreak / (c.lastBreak + c.makeAcc) := if_neg (Nat.ne_of_gt period)
  simp [toNat_eq_ite, Call.ratioDistorted, ratio]

/-- R56, R73 to R75: a pulse that joins a digit, its quotients written out. -/
theorem laterPulse_eq {c : Call} (period : 0 < c.lastBreak + c.makeAcc) (override : Option Nat) (p : Profile) (d : Nat) :
    c.laterPulse override p d =
      { c with
        pulses := c.pulses + 1
        lastBreak := d
        makeAcc := 0
        makeSum := min 1048575 (c.makeSum + c.makeAcc)
        makeCount := c.makeCount + 1
        periodSum := min 1048575 (c.periodSum + (c.lastBreak + c.makeAcc))
        distorted := c.distorted +
          if 100 * c.lastBreak / (c.lastBreak + c.makeAcc) < p.ratioMin ∨ p.ratioMax < 100 * c.lastBreak / (c.lastBreak + c.makeAcc)
          then 1 else 0
        threshold := some (endThreshold override p (some (min 1048575 (c.makeSum + c.makeAcc) / (c.makeCount + 1)))) } := by
  simp only [Call.laterPulse, toNat_ratioDistorted period, satAdd, floorDiv, Nat.succ_ne_zero, if_false]

/-- Settles O26. -/
theorem pulsesBuildTheDigit : Obligations.PulsesBuildTheDigit := by
  refine ⟨fun n s c up confirms convert opened call notGlitch short => ?_,
    fun n s c up confirms convert opened call notGlitch short few period => ?_,
    fun n s c up confirms convert opened call notGlitch short => ?_⟩
  all_goals refine State.endsBreak.exec_pulse ⟨up, confirms, convert, opened, call⟩ notGlitch short ?_
  · simp only [pulseBreak, setDecoder_turned, profileOf_turned, line_turned]
    exact modLine_congr s n rfl
  · simp only [pulseBreak, few, if_true, setDecoder_turned, profileOf_turned, line_turned, laterPulse_eq period]
    exact modLine_congr s n rfl
  · exact setDecoder_turned s n _

/-- Settles O27. -/
theorem overlongDigits : Obligations.OverlongDigits := by
  intro n s c up confirms convert opened call notGlitch short full period
  refine State.endsBreak.exec_pulse ⟨up, confirms, convert, opened, call⟩ notGlitch short ?_
  simp only [pulseBreak, Nat.not_lt.mpr full, if_false, setDecoder_turned, profileOf_turned, line_turned, rejectReport,
    Call.overlongDistorted, toNat_ratioDistorted period]
  exact congrArg (fun t => reportDigit n _ (latchReject n .overlong t)) (modLine_congr s n rfl)

/-! ## O30: flashes and clears -/

/-- R53, R59: the close of a flash break. -/
theorem closeBreak_flash (n : LineId) (f : DigitPhase) (c : Call) {d : Nat} {s : State} (ordered : (s.profileOf n).ordered = true)
    (least : (s.profileOf n).flashMin * 8 ≤ d) (most : d ≤ (s.profileOf n).flashMax * 8) :
    closeBreak n f c d s = flashBreak n f c s := by
  rw [closeBreak, (classifyBreak_eq_flash ordered d).mpr ⟨least, most⟩]

/-- R19, R53, R64: under the relations of R19 a break longer than FLASH_MAX clears the call. -/
theorem closeBreak_clear (n : LineId) (f : DigitPhase) (c : Call) {d : Nat} {s : State} (ordered : (s.profileOf n).ordered = true)
    (long : (s.profileOf n).flashMax * 8 < d) : closeBreak n f c d s = ⟨hangUp n s, false⟩ := by
  have class_ : classifyBreak (s.profileOf n) d = .clear := by
    simp only [Profile.ordered, Bool.and_eq_true, decide_eq_true_eq] at ordered
    unfold classifyBreak
    repeat rw [if_neg (by omega)]
  rw [closeBreak, class_]

/-- R59: the flash that follows a digit leaves the count at the 0 that the digit set, any other takes the arrival. -/
theorem laterSteps_flashBreak (n : LineId) (f : DigitPhase) (c : Call) (s : State) : laterSteps n (flashBreak n f c s) =
    if f = .indigit then handFlash n (completeDigit n c s)
    else takeDialIdle n (handFlash n (s.setDecoder n (.inCall (.closed .offhook) c))) := by
  have flashed (t : State) (offhook : (t.line n).decoder.callState = some (.closed .offhook)) :
      ∃ k, ((handFlash n t).line n).decoder = .inCall (.closed .offhook) k :=
    callState_eq_some ((callState_handFlash n t).trans offhook)
  cases f with
  | indigit =>
    obtain ⟨k, h⟩ := flashed _ (callState_completeDigit n c s)
    exact (laterSteps_offhook h).2
  | offhook | discard =>
    obtain ⟨k, h⟩ := flashed (s.setDecoder n (.inCall (.closed .offhook) c)) (by rw [decoder_setDecoder]; rfl)
    exact (laterSteps_offhook h).1

/-- R28, R64: the hang-up of a line on which no CONVERT waits. -/
theorem hangUp_eq {n : LineId} {s : State} (pending : (s.line n).config.pendingMode ≠ some .convert) :
    hangUp n s = (clearCall n .idle s).modLine n fun l => { l with config := l.config.taken } :=
  becomeIdle_eq (line_clearCall_self n .idle s) (by rwa [config_clearCall])

/-- R28, R64: a line that has hung up has no call; it is in FAULT where it takes a pending CONVERT with F at 1. -/
theorem decoder_hangUp (n : LineId) (s : State) :
    ((hangUp n s).line n).decoder = .idle ∨ ((hangUp n s).line n).decoder = .fault := by
  rw [hangUp, line_becomeIdle (line_clearCall_self n .idle s)]
  dsimp only
  split
  · exact .inr rfl
  · exact .inl rfl

/-- Settles O30. -/
theorem flashAndClearBreaks : Obligations.FlashAndClearBreaks := by
  intro n s f c up confirms convert opened call ordered
  have ends : s.endsBreak n f c := ⟨up, confirms, convert, opened, call⟩
  have ordered' : ((s.turned n).profileOf n).ordered = true := by rwa [profileOf_turned]
  rw [setFilter_turned]
  refine ⟨fun least most => ?_, fun long pending => ?_⟩
  · rw [ends.exec (closeBreak_flash n f c ordered' (by rwa [profileOf_turned]) (by rwa [profileOf_turned])),
      laterSteps_flashBreak, setDecoder_turned]
  · rw [ends.exec (closeBreak_clear n f c ordered' (by rwa [profileOf_turned])),
      laterSteps_noCall false (decoder_hangUp n _), hangUp_eq (by rwa [line_turned])]

end Sys2Proof.Machine
end

section
/-! PROOF. O29, O31, O32, O34: the clear of a call, and the timers of R47 that expire at an arrival whose samples agree with the filter. -/

namespace Sys2Proof.Machine

/-! ## O29: the clear of a call -/

theorem bound_bind {α : Type} {size : Nat} (p : PagedSet α size) (g : Page) : (p.bind g).bound g = p.bound g + 1 := by
  cases g <;> rfl

theorem bound_unbind {α : Type} {size : Nat} (p : PagedSet α size) (g : Page) : (p.unbind g).bound g = p.bound g - 1 := by
  cases g <;> rfl

/-- R66: the clear of an open call. -/
theorem clearCall_inCall {n : LineId} {s : State} {st : CallState} {c : Call} (call : (s.line n).decoder = .inCall st c)
    (d : Decoder) : clearCall n d s =
      (s.unbindPages c.transPage c.codePage).modLine n fun l => { l with decoder := d, emission := Emission.idle } := by
  simp [clearCall, call]

/-- Settles O29. -/
theorem clearsEndTheCall : Obligations.ClearsEndTheCall := by
  intro n s st c d call
  rw [clearCall_inCall call]
  refine ⟨line_modLine_self _ n _, ?_, fun k bound => ?_, fun m other => line_modLine_other _ _ other, rfl⟩
  · simp [State.unbindPages, bound_unbind]
  · simp [State.unbindPages, bound, bound_unbind]

/-! ## The agreeing arrival -/

/-- The line after an L sample that agrees with its loop state, a run that it aborts counted (R35). -/
def Line.agreed (l : Line) : Line :=
  { l with
    filter := { l.filter with age := min 65535 (l.filter.age + 1), run := 0 }
    quality := if l.filter.run = 0 then l.quality
      else { l.quality with
        current := { l.quality.current with abortedRuns := min 65535 (l.quality.current.abortedRuns + 1) } } }

/-- R35: the agreeing L sample of a CONVERT line, as one change of the line. -/
theorem agreeingSample_eq {n : LineId} {s : State} (convert : (s.line n).config.mode = .convert) :
    agreeingSample n s = s.modLine n Line.agreed := by
  by_cases run : (s.line n).filter.run = 0
  · simp only [agreeingSample, Filter.agree, run, if_true, reduceCtorEq, false_and, if_false, setFilter_eq]
    exact modLine_congr s n (by simp [Line.agreed, run, satAdd])
  · simp only [agreeingSample, Filter.agree, run, if_false, convert, and_self, if_true, setFilter_eq, reportAborted, modQuality_eq,
      modLine_modLine]
    exact modLine_congr s n (by simp [Line.agreed, run, satAdd, count])

theorem line_agreeingSample {n : LineId} {s : State} (convert : (s.line n).config.mode = .convert) :
    (agreeingSample n s).line n = (s.line n).agreed := by
  rw [agreeingSample_eq convert, line_modLine_self]

theorem decoder_agreeingSample {n : LineId} {s : State} (convert : (s.line n).config.mode = .convert) :
    ((agreeingSample n s).line n).decoder = (s.line n).decoder := by
  rw [line_agreeingSample convert]
  rfl

theorem profileOf_agreeingSample {n : LineId} {s : State} (convert : (s.line n).config.mode = .convert) :
    (agreeingSample n s).profileOf n = s.profileOf n := by
  rw [State.profileOf, line_agreeingSample convert, agreeingSample_eq convert]
  rfl

/-- R36: after an agreeing sample the whole age is measured. -/
theorem measured_agreed (l : Line) : l.agreed.filter.measured = min 65535 (l.filter.age + 1) := rfl

/-! ## O31: the seize timer -/

/-- R51, R128: the line at which a call opens. -/
theorem line_openCall (n : LineId) (s : State) : (openCall n s).line n =
    { s.line n with
      decoder := .inCall (.closed .offhook)
        (Call.opening (s.openTransPage n) (s.openCodePage n) (openPhase s (s.openCodePage n)))
      emission := { (s.line n).emission with firstWait := firstWaitOf ((s.profileOf n).firstDelay * 8) } } :=
  line_modLine_self _ n _

/-- R41, R50: the arrival at which the seize timer expires opens the call, and its G sample empties the fault run. -/
theorem exec_seizeExpiry_due {n : LineId} {s : State} (up : s.lu.up = true) (convert : (s.line n).config.mode = .convert)
    (seizing : (s.line n).decoder = .seizing) (due : (s.profileOf n).seizeMin * 8 ≤ min 65535 ((s.line n).filter.age + 1)) :
    exec (.seizeExpiry n) s = .next ((openCall n (agreeingSample n s)).modLine n fun l =>
      { l with filter := { l.filter with faultRun := 0 } }) := by
  have line := line_agreeingSample convert
  have seizing' : ((agreeingSample n s).line n).decoder = .seizing := (decoder_agreeingSample convert).trans seizing
  have due' : ((agreeingSample n s).profileOf n).seizeMin * 8 ≤ ((agreeingSample n s).line n).filter.measured := by
    rw [profileOf_agreeingSample convert, line]
    exact due
  have opens : laterSteps n ⟨agreeingSample n s, false⟩ = openCall n (agreeingSample n s) :=
    (laterSteps_of_timers ((takeTimers_seizing seizing').trans (if_pos due')) false).trans (if_pos (.inr rfl))
  refine congrArg Host.Outcome.next ((expiryArrival_due up convert (by simp [seizeDue, seizing', due'])).trans ?_)
  rw [opens, faultSample_same _ (by rw [line_openCall, line]; rfl), exitFault_stays (.inl (by rw [line_modLine_self, line_openCall]; simp))]

/-- Settles O31. -/
theorem seizuresOpenCalls : Obligations.SeizuresOpenCalls := by
  intro n s up convert seizing due
  refine ⟨_, exec_seizeExpiry_due up convert seizing due, ?_⟩
  have line := line_agreeingSample convert
  have profile := profileOf_agreeingSample convert
  have xlat : (agreeingSample n s).xlat = s.xlat := by rw [agreeingSample_eq convert]; rfl
  have code : (agreeingSample n s).code = s.code := by rw [agreeingSample_eq convert]; rfl
  generalize agreeingSample n s = u at line profile xlat code ⊢
  have transPage : u.openTransPage n = ⟨(s.profileOf n).xlatSet, (s.xlat.get (s.profileOf n).xlatSet).active⟩ := by
    rw [State.openTransPage, profile, xlat]
  have codePage : u.openCodePage n = (s.profileOf n).codeSet.map fun k => ⟨k, (s.code.get k).active⟩ := by
    rw [State.openCodePage, profile, code]
  rw [line_modLine_self, line_openCall, line, transPage, codePage, profile]
  refine ⟨?_, ?_, fun k named => ?_, rfl, ?_, rfl, rfl⟩
  · cases named : (s.profileOf n).codeSet with
    | none => rfl
    | some k => simp only [openPhase, code, Option.map_some]; rfl
  · simp [openCall, State.bindPages, transPage, xlat, bound_bind]
  · simp [openCall, State.bindPages, codePage, named, code, bound_bind]
  · rfl

/-! ## O32: the digit-end timer -/

/-- R79: the learned mean make, its quotient written out. -/
theorem learn_eq (c : Call) : c.learn = if 1 ≤ c.makeCount then some (c.makeSum / c.makeCount) else c.learned := by
  unfold Call.learn
  split
  · rw [floorDiv, if_neg (by omega)]
  · rfl

/-- R60, R87: what completes with a digit, from what its pulse count translates to. -/
theorem completeDigit_eq {n : LineId} {s : State} {c : Call} {v : TransValue} (finds : s.translate c = v) : completeDigit n c s =
    reportDigit n ⟨c.pulses, c.distorted, decide (v = .reject), speedOutside (s.profileOf n) c.speed, c.speed⟩
      (handTranslation n v (s.setDecoder n (.inCall (.closed .offhook)
        { c with learned := if 1 ≤ c.makeCount then some (c.makeSum / c.makeCount) else c.learned, dialIdle := 0 }))) := by
  rw [completeDigit, finds, learn_eq]

/-- R41, R47: the arrival at which the digit-end timer expires. -/
theorem exec_digitEndExpiry_due {n : LineId} {s t : State} (up : s.lu.up = true) (convert : (s.line n).config.mode = .convert)
    (due : digitEndDue n (agreeingSample n s) = true) (after : laterSteps n ⟨agreeingSample n s, false⟩ = t) :
    exec (.digitEndExpiry n) s = .next (faultSample n (s.line n).filter.fault t) := by
  rw [← after]
  exact congrArg Host.Outcome.next (expiryArrival_due up convert due)

/-- Settles O32. -/
theorem digitEndExpiriesAct : Obligations.DigitEndExpiriesAct := by
  refine ⟨fun n s u c threshold up convert call inForce filled _ _ hu => ?_, fun n s c threshold up convert call inForce filled => ?_⟩
  all_goals
    have line := line_agreeingSample convert
    have done : c.digitDone ((agreeingSample n s).line n).filter.measured = true := by
      rw [digitDone_some inForce, line, measured_agreed]
      exact decide_eq_true filled
  · have call' : ((agreeingSample n s).line n).decoder = .inCall (.closed .indigit) c := (decoder_agreeingSample convert).trans call
    have due : digitEndDue n (agreeingSample n s) = true := by simpa [digitEndDue, call'] using done
    refine exec_digitEndExpiry_due up convert due ((laterSteps_digitDone call' done false).trans ?_)
    have finds : (agreeingSample n s).translate c =
        (((s.xlat.get c.transPage.set).entries c.transPage.page).toList[c.pulses - 1]?).getD .reject := by
      rw [agreeingSample_eq convert]
      rfl
    rw [completeDigit_eq finds, profileOf_agreeingSample convert, ← hu]
    cases (((s.xlat.get c.transPage.set).entries c.transPage.page).toList[c.pulses - 1]?).getD .reject <;> rfl
  · have call' : ((agreeingSample n s).line n).decoder = .inCall (.closed .discard) c := (decoder_agreeingSample convert).trans call
    have due : digitEndDue n (agreeingSample n s) = true := by simpa [digitEndDue, call'] using done
    refine exec_digitEndExpiry_due up convert due ((laterSteps_discardDone call' done).trans (congrArg (takeDialIdle n) ?_))
    rw [agreeingSample_eq convert, setDecoder_eq, modLine_modLine]
    rfl

/-! ## O34: the clear timer -/

/-- R64: the clear timer in OPEN. -/
theorem clearDue_opened {n : LineId} {s : State} {f : DigitPhase} {c : Call} (call : (s.line n).decoder = .inCall (.opened f) c) :
    clearDue n s = true ↔ (s.profileOf n).flashMax * 8 < (s.line n).filter.measured := by
  simp only [clearDue, call, decide_eq_true_eq, Nat.succ_le_iff]

/-- R47: where the clear timer is due the call hangs up. -/
theorem takeTimers_clearDue {n : LineId} {s : State} {st : CallState} {c : Call} (call : (s.line n).decoder = .inCall st c)
    (due : clearDue n s = true) : takeTimers n s = ⟨hangUp n s, false⟩ := by
  simp [takeTimers, seizeDue, call, due]

theorem call_hangUp (n : LineId) (s : State) : ((hangUp n s).line n).decoder.call = none := by
  rcases decoder_hangUp n s with h | h <;> rw [h] <;> rfl

/-- R64, R66: the arrival at which the clear timer expires hangs up. -/
theorem exec_clearExpiry_due {n : LineId} {s : State} {f : DigitPhase} {c : Call} (up : s.lu.up = true)
    (convert : (s.line n).config.mode = .convert) (call : (s.line n).decoder = .inCall (.opened f) c)
    (long : (s.profileOf n).flashMax * 8 < min 65535 ((s.line n).filter.age + 1)) :
    exec (.clearExpiry n) s = .next (faultSample n (s.line n).filter.fault (hangUp n (agreeingSample n s))) := by
  have line := line_agreeingSample convert
  have call' : ((agreeingSample n s).line n).decoder = .inCall (.opened f) c := (decoder_agreeingSample convert).trans call
  have due : clearDue n (agreeingSample n s) = true := by
    rw [clearDue_opened call', profileOf_agreeingSample convert, line]
    exact long
  have hangsUp : laterSteps n ⟨agreeingSample n s, false⟩ = hangUp n (agreeingSample n s) := by
    rw [laterSteps_of_timers (takeTimers_clearDue call' due), if_neg (by simp), takeDialIdle_noCall (call_hangUp n _)]
  rw [← hangsUp]
  exact congrArg Host.Outcome.next (expiryArrival_due up convert due)

/-! ## O34: the dial-idle expiry -/

theorem modCall_setDecoder (s : State) (n : LineId) (st : CallState) (c : Call) (f : Call → Call) :
    (s.setDecoder n (.inCall st c)).modCall n f = s.setDecoder n (.inCall st (f c)) := by
  rw [setDecoder_eq, modCall_eq, modLine_modLine]
  rfl

/-- R110: without a fallback the held symbols are queued, and the call is FREE. -/
theorem resolve_none (n : LineId) (c : Call) (s : State) : resolve n c none [] s =
    bring n (c.held.map .digit) (s.modCall n fun k => { k with held := [], fallback := none, phase := .free }) := by
  simp [resolve, resolvedSymbols]

/-- R110, R111: a fallback resolves on the live entry at its offset. -/
theorem resolve_some {n : LineId} {c : Call} {s : State} {f : Nat} {e : CodeEntry} (live : (s.liveOf c)[f]? = some e) :
    resolve n c (some f) [] s = bring n ((resolvedSymbols c.held (some e)).map .digit)
      ((matchEffects n f e s).modCall n fun k => { k with held := [], fallback := none, phase := .free }) := by
  simp [resolve, live]

/-- R109: the dial-idle expiry of a call resolves its screen on the fallback. -/
theorem handDialIdle_inCall {n : LineId} {s : State} {st : CallState} {c : Call} (call : (s.line n).decoder = .inCall st c) :
    handDialIdle n s = resolve n c c.fallback [] s := by
  simp [handDialIdle, callOf_eq, call, Decoder.call]

/-- R47: step 2 of an arrival at which no timer clears the call or completes a digit: the call goes on, or its discard ends. -/
theorem takeTimers_stays {n : LineId} {s : State} {st after : CallState} {c : Call} (call : (s.line n).decoder = .inCall st c)
    (clear : clearDue n s = false)
    (goes : after = st ∧ digitEndDue n s = false ∨ after = .closed .offhook ∧ st = .closed .discard ∧ digitEndDue n s = true) :
    takeTimers n s = ⟨s.setDecoder n (.inCall after c), false⟩ := by
  rcases goes with ⟨rfl, early⟩ | ⟨rfl, rfl, due⟩
  · rw [takeTimers_notDue call clear early, setDecoder_eq, modLine_id s n (by simp [← call])]
  · exact (takeTimers_discard call).trans (if_pos (by simpa [digitEndDue, call] using due))

/-- R63: where the timers clear the call or complete a digit, no dial-idle count is left to expire. -/
theorem dialIdleExpires_ended {n : LineId} {s : State} {st : CallState} {c : Call} (call : (s.line n).decoder = .inCall st c)
    (ends : clearDue n s = true ∨ st = .closed .indigit ∧ digitEndDue n s = true) : dialIdleExpires n s = false := by
  rcases ends with due | ⟨rfl, due⟩
  · simp [dialIdleExpires, takeTimers_clearDue call due, dialIdleDue, callOf_eq, call_hangUp]
  · have done : c.digitDone (s.line n).filter.measured = true := by simpa [digitEndDue, call] using due
    simp [dialIdleExpires, takeTimers_indigit call, done]

/-- R63, R109: the arrival at which the dial-idle count of a MATCHING call expires resolves its screen. -/
theorem exec_dialIdleExpiry_due {n : LineId} {s : State} {st after : CallState} {c d : Call} (up : s.lu.up = true)
    (convert : (s.line n).config.mode = .convert) (call : (s.line n).decoder = .inCall st c) (matching : c.phase = .matching)
    (due : (s.profileOf n).dialIdle * 8 ≤ min 262143 (c.dialIdle + 1)) (counted : d = { c with dialIdle := min 262143 (c.dialIdle + 1) })
    (clear : clearDue n (agreeingSample n s) = false)
    (goes : after = st ∧ digitEndDue n (agreeingSample n s) = false ∨
      after = .closed .offhook ∧ st = .closed .discard ∧ digitEndDue n (agreeingSample n s) = true) :
    exec (.dialIdleExpiry n) s = .next (faultSample n (s.line n).filter.fault
      (resolve n d d.fallback [] ((agreeingSample n s).setDecoder n (.inCall after d)))) := by
  have call' : ((agreeingSample n s).line n).decoder = .inCall st c := (decoder_agreeingSample convert).trans call
  have timers := takeTimers_stays call' clear goes
  have profile := profileOf_agreeingSample convert
  have arrives := expiryArrival_due (due := dialIdleExpires) (n := n) up convert
  generalize agreeingSample n s = u at timers profile arrives ⊢
  have decoder : ((u.setDecoder n (.inCall after c)).line n).decoder = .inCall after c := decoder_setDecoder n _ u
  have profile' : (u.setDecoder n (.inCall after c)).profileOf n = s.profileOf n := by
    rw [← profile, State.profileOf, config_setDecoder]
    rfl
  have expires : dialIdleExpires n u = true := by
    simp [dialIdleExpires, timers, dialIdleDue, callOf_eq, decoder, Decoder.call, matching, profile', due, satAdd]
  refine (congrArg Host.Outcome.next (arrives expires)).trans ?_
  rw [laterSteps_of_timers timers, if_neg (by simp), takeDialIdle_inCall decoder, profile', if_pos ⟨matching, due⟩, ← counted,
    handDialIdle_inCall (decoder_setDecoder n _ _), setDecoder_eq, setDecoder_eq, modLine_modLine]
  rfl

/-- Settles O34. -/
theorem clearAndDialIdleExpiriesAct : Obligations.ClearAndDialIdleExpiriesAct := by
  refine ⟨fun n s f c up convert call long => ⟨fun pending => ?_, fun pending => ?_⟩,
    fun n s st after c d up convert call matching due counted =>
      ⟨fun ends => ?_, fun clear goes => ⟨fun none_ => ?_, fun f e some_ live => ?_⟩⟩,
    fun n s st c d call counted => ?_⟩
  · have none_ : ((clearCall n .idle (agreeingSample n s)).line n).config.pendingMode = none := by
      rw [config_clearCall, line_agreeingSample convert]
      exact pending
    rw [exec_clearExpiry_due up convert call long, hangUp, line_becomeIdle_none none_]
  · have pass : ((agreeingSample n s).line n).config.pendingMode = some .pass := by rw [line_agreeingSample convert]; exact pending
    rw [exec_clearExpiry_due up convert call long, hangUp_eq (by simp [pass])]
    exact congrArg (fun t => Host.Outcome.next (faultSample n _ t)) (modLine_congr _ n (by simp [LineConfig.taken, config_clearCall, pass]))
  · have call' : ((agreeingSample n s).line n).decoder = .inCall st c := (decoder_agreeingSample convert).trans call
    have still : expiryArrival dialIdleExpires n s = s := if_neg (by simp [dialIdleExpires_ended call' ends])
    exact congrArg Host.Outcome.next ((congrArg (atArrival s) still).trans (atArrival_self s))
  · have held : d.held = c.held := by rw [counted]
    have fallback : d.fallback = none := by rw [counted]; exact none_
    rw [exec_dialIdleExpiry_due up convert call matching due counted clear goes, fallback, resolve_none, modCall_setDecoder, held]
  · have held : d.held = c.held := by rw [counted]
    have fallback : d.fallback = some f := by rw [counted]; exact some_
    have live' : (((agreeingSample n s).setDecoder n (.inCall after d)).liveOf d)[f]? = some e := by
      rw [counted, agreeingSample_eq convert]
      exact live
    rw [exec_dialIdleExpiry_due up convert call matching due counted clear goes, fallback, resolve_some live', held]
  · rw [counted]
    exact takeDialIdle_inCall call

end Sys2Proof.Machine
end

section
/-! PROOF. O33: the speed of a digit, the digit-end threshold, and the make accumulator that stays below it. A digit or a discard with the
loop closed is held below by the timers, which come after everything else that an arrival does to the measure; the make before a break is
held below because the measured length that it took in was. -/

namespace Sys2Proof.Machine

/-! ## The speed and the threshold -/

/-- R78: a digit of a single pulse has no speed. -/
theorem speed_single {c : Call} (single : c.pulses < 2) : c.speed = none := if_neg (Nat.not_le.mpr single)

/-- R78, R80: the speed of a digit of more pulses, its quotients written out: neither divisor is 0. -/
theorem speed_several {c : Call} (several : 2 ≤ c.pulses) (periods : c.pulses - 1 ≤ c.periodSum) :
    c.speed = some (80000 / (c.periodSum / (c.pulses - 1))) := by
  have gaps : c.pulses - 1 ≠ 0 := by omega
  have mean : c.periodSum / (c.pulses - 1) ≠ 0 := (Nat.div_pos periods (Nat.pos_of_ne_zero gaps)).ne'
  simp only [Call.speed, floorDiv, if_pos several, if_neg gaps, if_neg mean]

/-- R78: a speed equal to either limit is in band. -/
theorem speedOutside_some (p : Profile) (v : Nat) : speedOutside p (some v) = true ↔ v < p.speedMin ∨ p.speedMax < v := by
  simp [speedOutside]

/-- R75: without an override, END_FIRST is in force where it is fixed and where there is no mean make. -/
theorem endThreshold_first {p : Profile} {mean : Option Nat} (first : p.endFixed = true ∨ mean = none) :
    endThreshold none p mean = p.endFirst * 8 := by
  rcases first with fixed | rfl
  · simp [endThreshold, fixed]
  · simp [endThreshold]

/-- R75: the clamped multiple of the mean make. -/
theorem endThreshold_mean {p : Profile} (adaptive : p.endFixed = false) (range : p.endMin ≤ p.endMax) (m : Nat) :
    endThreshold none p (some m) = max (p.endMin * 8) (min (p.endMax * 8) (m * p.endMult / 8)) := by
  simp [endThreshold, adaptive, adaptiveThreshold, clamp_eq_max_min (Nat.mul_le_mul_right 8 range)]

/-! ## Below the threshold in force -/

/-- What `Line.withinThreshold` says of a decoder, at a measured length of the loop state. -/
def Decoder.within (measured : Nat) : Decoder → Prop
  | .inCall (.closed p) c => p = .offhook ∨ c.digitDone measured = false
  | .inCall (.opened p) c => p = .offhook ∨ c.digitDone 0 = false
  | .idle | .seizing | .fault => True

/-- The part of it that speaks of a break: the make before the break is below the threshold in force. -/
def Decoder.breakWithin : Decoder → Prop
  | .inCall (.opened p) c => p = .offhook ∨ c.digitDone 0 = false
  | _ => True

/-- R76: no digit ends where the threshold in force, if there is one, is not reached. -/
theorem digitDone_eq_false {c : Call} {measured : Nat} :
    c.digitDone measured = false ↔ ∀ threshold, c.threshold = some threshold → c.makeAcc + measured < threshold := by
  cases h : c.threshold <;> simp [Call.digitDone, h]

theorem withinThreshold_iff (l : Line) : l.withinThreshold ↔ l.decoder.within l.filter.measured := by
  unfold Line.withinThreshold
  rcases l.decoder with _ | _ | _ | ⟨p | p, c⟩
  case inCall.closed =>
    refine ⟨fun below => or_iff_not_imp_left.mpr fun digit => digitDone_eq_false.mpr fun threshold inForce =>
      (below p c threshold digit inForce).1 rfl, fun h p c threshold digit inForce => ⟨?_, nofun⟩⟩
    rintro ⟨⟩
    exact digitDone_eq_false.mp (h.resolve_left digit) threshold inForce
  case inCall.opened =>
    refine ⟨fun below => or_iff_not_imp_left.mpr fun digit => digitDone_eq_false.mpr fun threshold inForce =>
      (below p c threshold digit inForce).2 rfl, fun h p c threshold digit inForce => ⟨nofun, ?_⟩⟩
    rintro ⟨⟩
    exact digitDone_eq_false.mp (h.resolve_left digit) threshold inForce
  all_goals simp [Decoder.within]

theorem Decoder.within.break {d : Decoder} {measured : Nat} (h : d.within measured) : d.breakWithin := by
  rcases d with _ | _ | _ | ⟨p | p, c⟩
  case inCall.opened => exact h
  all_goals trivial

/-- Where no call is open there is nothing to hold below a threshold. -/
theorem within_noCall {d : Decoder} (none_ : d.call = none) (measured : Nat) : d.within measured := by
  cases d with
  | inCall => cases none_
  | _ => trivial

/-- R45: OFFHOOK has no digit. -/
theorem within_offhook {d : Decoder} (offhook : d.callState = some (.closed .offhook)) (measured : Nat) : d.within measured := by
  obtain ⟨c, rfl⟩ := callState_eq_some offhook
  exact .inl rfl

/-- Only in OPEN is there a break. -/
theorem breakWithin_closed {d : Decoder} {p : DigitPhase} (closed : d.callState = some (.closed p)) : d.breakWithin := by
  obtain ⟨c, rfl⟩ := callState_eq_some closed
  trivial

/-- A change of the call record that leaves its threshold and its make accumulator leaves the comparison as it is. -/
theorem within_mapCall {f : Call → Call} (same : ∀ c m, (f c).digitDone m = c.digitDone m) (d : Decoder) (measured : Nat) :
    (d.mapCall f).within measured ↔ d.within measured := by
  rcases d with _ | _ | _ | ⟨p | p, c⟩
  case inCall.closed | inCall.opened => simp only [Decoder.mapCall, Decoder.within, same]
  all_goals rfl

/-! ## Step 1 of R47 -/

/-- R34, R36: the transition reports no more than was measured before the sample that confirms it. -/
theorem confirmed_le_measured {f : Filter} {p : Profile} {l : Bool} {now : LoopState} {d : Nat}
    (confirmed : (f.takeLoop p l).2 = .confirmed now d) : d ≤ f.measured := by
  unfold Filter.takeLoop at confirmed
  split at confirmed
  · simp only [Filter.agree] at confirmed
    split at confirmed <;> cases confirmed
  · simp only [Filter.contrary, satAdd] at confirmed
    split at confirmed <;> cases confirmed
    unfold Filter.measured
    omega

/-- R72: a closed length that did not fill the threshold in force joins the make accumulator and leaves it below. -/
theorem digitDone_addMake {c : Call} {d measured : Nat} (early : c.digitDone measured = false) (short : d ≤ measured) :
    (c.addMake d).digitDone 0 = false := by
  rw [digitDone_eq_false] at early ⊢
  intro threshold inForce
  have below := early threshold inForce
  simp only [Call.addMake, satAdd]
  omega

/-- R52, R72: a break that begins. -/
theorem breakWithin_startBreak {n : LineId} {p : DigitPhase} {c : Call} {d measured : Nat} (s : State)
    (before : (Decoder.inCall (.closed p) c).within measured) (short : d ≤ measured) :
    ((startBreak n p c d s).line n).decoder.breakWithin := by
  cases p with
  | offhook => simp [startBreak, Decoder.breakWithin]
  | indigit | discard =>
    have early : c.digitDone measured = false := by simpa [Decoder.within] using before
    simp [startBreak, Decoder.breakWithin, digitDone_addMake early short]

/-- R55, R56, R57: a pulse closes its break. -/
theorem callState_pulseBreak (n : LineId) (f : DigitPhase) (c : Call) (d : Nat) (s : State) :
    ∃ p, ((pulseBreak n f c d s).line n).decoder.callState = some (.closed p) := by
  unfold pulseBreak
  dsimp only
  split
  · exact ⟨.indigit, by simp [Decoder.callState]⟩
  · split
    · exact ⟨.indigit, by simp [Decoder.callState]⟩
    · exact ⟨.discard, by simp [Decoder.callState]⟩
  · exact ⟨.discard, by simp [Decoder.callState]⟩

/-- R59: a flash leaves the decoder in OFFHOOK. -/
theorem callState_flashBreak (n : LineId) (f : DigitPhase) (c : Call) (s : State) :
    ((flashBreak n f c s).state.line n).decoder.callState = some (.closed .offhook) := by
  cases f with
  | indigit => exact (callState_handFlash n _).trans (callState_completeDigit n c s)
  | offhook | discard => exact (callState_handFlash n _).trans (by rw [decoder_setDecoder]; rfl)

/-- R53: a break that ends leaves no break. -/
theorem breakWithin_closeBreak (n : LineId) (f : DigitPhase) (c : Call) (d : Nat) (s : State) :
    ((closeBreak n f c d s).state.line n).decoder.breakWithin := by
  unfold closeBreak
  split
  · exact breakWithin_closed (p := f) (by simp [glitchBreak, Decoder.callState])
  · obtain ⟨p, closed⟩ := callState_pulseBreak n f c d s
    exact breakWithin_closed closed
  · simp [decoder_indeterminateBreak, Decoder.breakWithin]
  · exact breakWithin_closed (callState_flashBreak n f c s)
  · exact (within_noCall (call_hangUp n s) 0).break

/-- A confirmed transition leaves the make before a break below the threshold in force. -/
theorem breakWithin_takeTransition {n : LineId} {now : LoopState} {d measured : Nat} {s : State}
    (before : (s.line n).decoder.within measured) (short : d ≤ measured) :
    ((takeTransition n now d s).state.line n).decoder.breakWithin := by
  unfold takeTransition
  split
  case h_3 =>
    have idle : ((reportFalseSeizure n (s.setDecoder n .idle)).line n).decoder = .idle := by simp
    rw [line_becomeIdle idle]
    dsimp only
    split <;> trivial
  case h_6 call =>
    rw [call] at before
    exact breakWithin_startBreak s before short
  case h_8 => exact breakWithin_closeBreak n _ _ d s
  case h_1 => simp [Decoder.breakWithin]
  all_goals exact before.break

/-- Whatever the L sample brings, step 1 leaves the make before a break below the threshold in force. -/
theorem breakWithin_takeLoopResult {n : LineId} {r : LoopResult} {measured : Nat} {s : State}
    (before : (s.line n).decoder.within measured) (short : ∀ now d, r = .confirmed now d → d ≤ measured) :
    ((takeLoopResult n r s).state.line n).decoder.breakWithin := by
  cases r with
  | nothing => exact before.break
  | aborted => simpa [takeLoopResult] using before.break
  | confirmed now d => exact breakWithin_takeTransition before (short now d rfl)

/-! ## Steps 2 and 3 of R47 -/

/-- R76: after the timers no digit and no discard that goes on has filled the threshold in force. -/
theorem within_takeTimers {n : LineId} {s : State} (before : (s.line n).decoder.breakWithin) :
    ((takeTimers n s).state.line n).decoder.within (s.line n).filter.measured := by
  rcases h : (s.line n).decoder with _ | _ | _ | ⟨⟨_ | _ | _⟩ | f, c⟩
  case idle => simp [takeTimers_untimed (.inl h), h, Decoder.within]
  case fault => simp [takeTimers_untimed (.inr (.inl h)), h, Decoder.within]
  case seizing =>
    rw [takeTimers_seizing h]
    split
    · simp [line_openCall, Decoder.within]
    · simp [h, Decoder.within]
  case inCall.closed.offhook => simp [takeTimers_untimed (.inr (.inr ⟨c, h⟩)), h, Decoder.within]
  case inCall.closed.indigit =>
    rw [takeTimers_indigit h]
    split
    · exact within_offhook (callState_completeDigit n c s) _
    · rename_i early
      dsimp only
      rw [h]
      exact .inr (Bool.eq_false_iff.mpr early)
  case inCall.closed.discard =>
    rw [takeTimers_discard h]
    split
    · simp [Decoder.within]
    · rename_i early
      dsimp only
      rw [h]
      exact .inr (Bool.eq_false_iff.mpr early)
  case inCall.opened =>
    rw [takeTimers_opened h]
    split
    · exact within_noCall (call_hangUp n s) _
    · rw [h] at before ⊢
      exact before

/-- R110: what a resolution changes of the call record. -/
theorem decoder_resolve (n : LineId) (c : Call) (f : Option Nat) (extra : List Item) (s : State) :
    ((resolve n c f extra s).line n).decoder =
      (s.line n).decoder.mapCall fun k => { k with held := [], fallback := none, phase := .free } := by
  unfold resolve
  dsimp only
  rw [decoder_bring, modCall_eq, line_modLine_self]
  split <;> simp

theorem within_handDialIdle (n : LineId) (s : State) (measured : Nat) :
    ((handDialIdle n s).line n).decoder.within measured ↔ (s.line n).decoder.within measured := by
  unfold handDialIdle
  split
  · rfl
  · rw [decoder_resolve]
    exact within_mapCall (by intros; rfl) _ _

theorem within_countDialIdle (n : LineId) (s : State) (measured : Nat) :
    ((countDialIdle n s).line n).decoder.within measured ↔ (s.line n).decoder.within measured := by
  rw [countDialIdle, modCall_eq, line_modLine_self]
  exact within_mapCall (by intros; rfl) _ _

/-- R63: the dial-idle count, its expiry included, does not touch the measure of a digit. -/
theorem within_takeDialIdle (n : LineId) (s : State) (measured : Nat) :
    ((takeDialIdle n s).line n).decoder.within measured ↔ (s.line n).decoder.within measured := by
  unfold takeDialIdle
  split
  · rw [within_handDialIdle, within_countDialIdle]
  · exact within_countDialIdle n s measured

/-- Steps 2 and 3 of R47, compared with the length that was measured before them. -/
theorem within_laterSteps {n : LineId} {first : Taken} (before : (first.state.line n).decoder.breakWithin) :
    ((laterSteps n first).line n).decoder.within (first.state.line n).filter.measured := by
  unfold laterSteps
  dsimp only
  split
  · exact within_takeTimers before
  · exact (within_takeDialIdle n _ _).mpr (within_takeTimers before)

/-! ## One arrival -/

/-- No update of the decoder touches the filter of its line. -/
theorem decoderClosed_filter (n : LineId) (f : Filter) : DecoderClosed n fun t => (t.line n).filter = f where
  attention := fun _ p => p
  line := fun g p step => by rw [line_modLine_self, step.filter, p]
  opening := fun p _ => by rw [line_openCall]; exact p
  clear := fun d p _ _ => by rw [filter_clearCall, p]

theorem filter_takeLoopResult {n : LineId} {s : State} (convert : (s.line n).config.mode = .convert) (r : LoopResult) :
    ((takeLoopResult n r s).state.line n).filter = (s.line n).filter := by
  have keeps := decoderClosed_filter n (s.line n).filter
  cases r with
  | nothing => rfl
  | aborted => exact keeps.reportAborted rfl
  | confirmed now d => exact keeps.takeTransition now d rfl convert

theorem filter_laterSteps (n : LineId) (first : Taken) :
    ((laterSteps n first).line n).filter = (first.state.line n).filter :=
  (decoderClosed_filter n (first.state.line n).filter).laterSteps rfl

/-- The L sample of a CONVERT line. -/
theorem withinThreshold_loopSample {n : LineId} {s : State} (convert : (s.line n).config.mode = .convert)
    (before : (s.line n).withinThreshold) (l : Bool) : ((loopSample n l s).line n).withinThreshold := by
  rw [withinThreshold_iff] at before ⊢
  rw [loopSample_convert convert, filter_laterSteps]
  refine within_laterSteps (breakWithin_takeLoopResult ?_ fun now d confirmed => confirmed_le_measured confirmed)
  rwa [decoder_setFilter]

theorem measured_takeFault (f : Filter) (g : Bool) : (f.takeFault g).1.measured = f.measured := by
  unfold Filter.takeFault
  split
  · rfl
  · split <;> rfl

/-- R67: F becoming 1 can only end the call. -/
theorem within_faultChanged {n : LineId} {s : State} {measured : Nat} (before : (s.line n).decoder.within measured) (f : Bool) :
    ((faultChanged n f s).line n).decoder.within measured := by
  cases f with
  | false => rwa [faultChanged_false, decoder_latch]
  | true =>
    rw [faultChanged_true]
    split
    · rw [line_clearCall_self]
      trivial
    · rwa [decoder_latch]

/-- R68: the exit of a decoder in FAULT leaves it in IDLE. -/
theorem within_exitFault {n : LineId} {s : State} {measured : Nat} (before : (s.line n).decoder.within measured) :
    ((exitFault n s).line n).decoder.within measured := by
  rw [exitFault_eq]
  split
  · rw [line_modLine_self]
    trivial
  · exact before

/-- The G sample of a line. -/
theorem withinThreshold_faultSample {n : LineId} {s : State} (before : (s.line n).withinThreshold) (g : Bool) :
    ((faultSample n g s).line n).withinThreshold := by
  rw [withinThreshold_iff] at before ⊢
  rw [filter_faultSample, measured_takeFault]
  have set : ((s.setFilter n ((s.line n).filter.takeFault g).1).line n).decoder.within (s.line n).filter.measured := by
    rwa [decoder_setFilter]
  unfold faultSample
  dsimp only
  refine within_exitFault ?_
  split
  · exact within_faultChanged set _
  · exact set

/-- R76, R80: every arrival of a CONVERT line. -/
theorem withinThreshold_arrival {n : LineId} {s : State} (convert : (s.line n).config.mode = .convert)
    (before : (s.line n).withinThreshold) (l g : Bool) : ((arrival n l g s).line n).withinThreshold :=
  withinThreshold_faultSample (withinThreshold_loopSample convert before l) g

/-- A timer row is an arrival or nothing. -/
theorem withinThreshold_expiryArrival {n : LineId} {s : State} (convert : (s.line n).config.mode = .convert)
    (before : (s.line n).withinThreshold) (due : LineId → State → Bool) :
    ((atArrival s (expiryArrival due n s)).line n).withinThreshold := by
  refine atArrival_keeps (P := fun t => (t.line n).withinThreshold) before ?_
  unfold expiryArrival
  split
  · exact withinThreshold_arrival convert before _ _
  · exact before

/-- R76, R80: the rows of line time are arrivals, or nothing. -/
theorem withinThreshold_lineTimeRow {n : LineId} {s t : State} {c : Instr}
    (row : c = .loopTransition n ∨ c = .faultStateChange n ∨ c = .seizeExpiry n ∨ c = .digitEndExpiry n ∨ c = .dialIdleExpiry n ∨
      c = .clearExpiry n)
    (step : exec c s = .next t) (convert : (s.line n).config.mode = .convert) (before : (s.line n).withinThreshold) :
    (t.line n).withinThreshold := by
  have arrives := withinThreshold_arrival convert before
  have expires := withinThreshold_expiryArrival convert before
  rcases row with rfl | rfl | rfl | rfl | rfl | rfl <;> cases step
  · refine atArrival_keeps (P := fun t => (t.line n).withinThreshold) before ?_
    split
    · exact arrives _ _
    · exact before
    · exact before
  · refine atArrival_keeps (P := fun t => (t.line n).withinThreshold) before ?_
    split
    · exact arrives _ _
    · exact before
  · exact expires seizeDue
  · exact expires digitEndDue
  · exact expires dialIdleExpires
  · exact expires clearDue

/-- Settles O33. -/
theorem speedsAndThresholdsAreComputed : Obligations.SpeedsAndThresholdsAreComputed := by
  refine ⟨fun c p => ⟨speed_single, speed_several, rfl, speedOutside_some p⟩,
    fun o p mean => ⟨?_, ?_, ?_, ?_⟩,
    fun n s l g convert before => withinThreshold_arrival convert before l g,
    fun n s t c row step convert before => withinThreshold_lineTimeRow row step convert before⟩
  · rintro v rfl
    rfl
  · rintro rfl fixed
    exact endThreshold_first (.inl fixed)
  · rintro rfl noMean
    exact endThreshold_first (.inr noMean)
  · rintro m rfl adaptive rfl range
    exact endThreshold_mean adaptive range m

end Sys2Proof.Machine
end

section
/-! PROOF. O8: the bound counts stay exact. They are counts over the lines of the pages that each line's call is bound to; a call's
opening and its clear move one line's pages and the counts together, and no other update moves either. -/

namespace Sys2Proof.Machine

/-! ## The pages that a line's call is bound to -/

/-- The pages that a decoder's call is bound to, absent without a call (R46). -/
def Decoder.pages (d : Decoder) : Option (TransPage × Option CodePage) := d.call.map fun c => (c.transPage, c.codePage)

theorem pages_of_noCall {d : Decoder} (h : d.call = none) : d.pages = none := by simp [Decoder.pages, h]

/-- The open calls whose pages have a property. -/
def State.callsBound (s : State) (q : TransPage × Option CodePage → Bool) : Nat :=
  allLines.countP fun n => (s.line n).decoder.pages.any q

theorem callsOnTrans_eq (s : State) (p : TransPage) : s.callsOnTrans p = s.callsBound fun x => x.1 = p := by
  simp [State.callsOnTrans, State.callsBound, Decoder.pages, callOf_eq, Option.any_map]

theorem callsOnCode_eq (s : State) (p : CodePage) : s.callsOnCode p = s.callsBound fun x => x.2 = some p := by
  simp [State.callsOnCode, State.callsBound, Decoder.pages, callOf_eq, Option.any_map]

theorem bindingsLawful_iff (s : State) : s.bindingsLawful ↔
    (∀ k g, (s.xlat.get k).bound g = s.callsBound fun x => x.1 = ⟨k, g⟩) ∧
    ∀ k g, (s.code.get k).bound g = s.callsBound fun x => x.2 = some ⟨k, g⟩ := by
  simp only [State.bindingsLawful, callsOnTrans_eq, callsOnCode_eq]

/-- A change of one line moves the count by that line's part. -/
theorem callsBound_modLine (s : State) (n : LineId) (f : Line → Line) (q : TransPage × Option CodePage → Bool) :
    (s.modLine n f).callsBound q + ((s.line n).decoder.pages.any q).toNat =
      s.callsBound q + ((f (s.line n)).decoder.pages.any q).toNat := by
  have count := countP_allLines (p := fun m => ((s.modLine n f).line m).decoder.pages.any q)
    (q := fun m => (s.line m).decoder.pages.any q) n fun m other => by rw [line_modLine_other s f other]
  rwa [line_modLine_self] at count

/-- No update of a line but the opening and the clear of its call moves the pages its call is bound to. -/
theorem pages_lineStep {l l' : Line} (h : LineStep l l') (lawful : l.modeLawful) : l'.decoder.pages = l.decoder.pages := by
  cases h with
  | keep decoder _ _ _ _ _ => rw [decoder]
  | noCall d before after _ => rw [pages_of_noCall before]; exact pages_of_noCall after
  | call before trans code => simp [before, Decoder.pages, Decoder.call, trans, code]
  | enter m before _ =>
    have noCall : l.decoder.call = none := before.elim id fun other => by rw [lawful.1 other]; rfl
    rw [pages_of_noCall noCall]
    refine pages_of_noCall ?_
    split <;> rfl
  | park _ => rfl
  | cancel => rfl
  | defer _ _ _ _ => rfl

/-! ## The counts through bindings -/

theorem bound_bind_page {α : Type} {size : Nat} (p : PagedSet α size) (h g : Page) :
    (p.bind h).bound g = p.bound g + (decide (h = g)).toNat := by
  cases h <;> cases g <;> rfl

theorem bound_unbind_page {α : Type} {size : Nat} (p : PagedSet α size) (h g : Page) :
    (p.unbind h).bound g = p.bound g - (decide (h = g)).toNat := by
  cases h <;> cases g <;> rfl

theorem bound_vmod_bind {α : Type} {size m : Nat} (v : Vector (PagedSet α size) m) (i k : Fin m) (h g : Page) :
    ((vmod v i (PagedSet.bind h)).get k).bound g = (v.get k).bound g + (decide (i = k ∧ h = g)).toNat := by
  rw [vget_vmod]
  by_cases same : k = i
  · subst same; simp [bound_bind_page]
  · simp [same, Ne.symm same]

theorem bound_vmod_unbind {α : Type} {size m : Nat} (v : Vector (PagedSet α size) m) (i k : Fin m) (h g : Page) :
    ((vmod v i (PagedSet.unbind h)).get k).bound g = (v.get k).bound g - (decide (i = k ∧ h = g)).toNat := by
  rw [vget_vmod]
  by_cases same : k = i
  · subst same; simp [bound_unbind_page]
  · simp [same, Ne.symm same]

theorem bound_bindPages_trans (s : State) (t : TransPage) (c : Option CodePage) (k : Fin 8) (g : Page) :
    ((s.bindPages t c).xlat.get k).bound g = (s.xlat.get k).bound g + (decide (t = ⟨k, g⟩)).toNat := by
  obtain ⟨i, h⟩ := t
  simp only [TransPage.mk.injEq]
  exact bound_vmod_bind s.xlat i k h g

theorem bound_bindPages_code (s : State) (t : TransPage) (c : Option CodePage) (k : Fin 4) (g : Page) :
    ((s.bindPages t c).code.get k).bound g = (s.code.get k).bound g + (decide (c = some ⟨k, g⟩)).toNat := by
  rcases c with _ | ⟨i, h⟩
  · rfl
  · simp only [Option.some.injEq, CodePage.mk.injEq]
    exact bound_vmod_bind s.code i k h g

theorem bound_unbindPages_trans (s : State) (t : TransPage) (c : Option CodePage) (k : Fin 8) (g : Page) :
    ((s.unbindPages t c).xlat.get k).bound g = (s.xlat.get k).bound g - (decide (t = ⟨k, g⟩)).toNat := by
  obtain ⟨i, h⟩ := t
  simp only [TransPage.mk.injEq]
  exact bound_vmod_unbind s.xlat i k h g

theorem bound_unbindPages_code (s : State) (t : TransPage) (c : Option CodePage) (k : Fin 4) (g : Page) :
    ((s.unbindPages t c).code.get k).bound g = (s.code.get k).bound g - (decide (c = some ⟨k, g⟩)).toNat := by
  rcases c with _ | ⟨i, h⟩
  · rfl
  · simp only [Option.some.injEq, CodePage.mk.injEq]
    exact bound_vmod_unbind s.code i k h g

/-! ## The updates of a line -/

/-- A change of one line that leaves the pages of its call. -/
theorem bindingsLawful_modLine {s : State} {n : LineId} {f : Line → Line} (p : s.bindingsLawful)
    (same : (f (s.line n)).decoder.pages = (s.line n).decoder.pages) : (s.modLine n f).bindingsLawful := by
  have count (q) : (s.modLine n f).callsBound q = s.callsBound q := by
    have moved := callsBound_modLine s n f q
    rw [same] at moved
    exact Nat.add_right_cancel moved
  rw [bindingsLawful_iff] at p ⊢
  simpa only [count, modLine_xlat, modLine_code] using p

/-- R51, R86: a line without a call opens one, bound to the pages whose counts increase. -/
theorem bindingsLawful_bind {s : State} {n : LineId} {f : Line → Line} {t : TransPage} {c : Option CodePage} (p : s.bindingsLawful)
    (before : (s.line n).decoder.pages = none) (after : (f (s.line n)).decoder.pages = some (t, c)) :
    ((s.bindPages t c).modLine n f).bindingsLawful := by
  have count (q) : ((s.bindPages t c).modLine n f).callsBound q = s.callsBound q + (q (t, c)).toNat := by
    have moved := callsBound_modLine (s.bindPages t c) n f q
    change _ + ((s.line n).decoder.pages.any q).toNat = s.callsBound q + ((f (s.line n)).decoder.pages.any q).toNat at moved
    rwa [before, after] at moved
  rw [bindingsLawful_iff] at p ⊢
  obtain ⟨trans, code⟩ := p
  refine ⟨fun k g => ?_, fun k g => ?_⟩
  · rw [modLine_xlat, bound_bindPages_trans, count, trans]
  · rw [modLine_code, bound_bindPages_code, count, code]

/-- R66, R86: a line's call goes, and the counts of the pages it was bound to decrease; that call was counted, so none stands at 0. -/
theorem bindingsLawful_unbind {s : State} {n : LineId} {f : Line → Line} {t : TransPage} {c : Option CodePage} (p : s.bindingsLawful)
    (before : (s.line n).decoder.pages = some (t, c)) (after : (f (s.line n)).decoder.pages = none) :
    ((s.unbindPages t c).modLine n f).bindingsLawful := by
  have count (q) : ((s.unbindPages t c).modLine n f).callsBound q = s.callsBound q - (q (t, c)).toNat := by
    have moved := callsBound_modLine (s.unbindPages t c) n f q
    change _ + ((s.line n).decoder.pages.any q).toNat = s.callsBound q + ((f (s.line n)).decoder.pages.any q).toNat at moved
    rw [before, after] at moved
    exact Nat.eq_sub_of_add_eq moved
  rw [bindingsLawful_iff] at p ⊢
  obtain ⟨trans, code⟩ := p
  refine ⟨fun k g => ?_, fun k g => ?_⟩
  · rw [modLine_xlat, bound_unbindPages_trans, count, trans]
  · rw [modLine_code, bound_unbindPages_code, count, code]

theorem bindingsLawful_clearCall {s : State} (n : LineId) {d : Decoder} (p : s.bindingsLawful) (after : d.call = none) :
    (clearCall n d s).bindingsLawful := by
  have gone : d.pages = none := pages_of_noCall after
  unfold clearCall
  split
  · rename_i before
    exact bindingsLawful_unbind p (by rw [before]; rfl) gone
  all_goals
    rename_i before
    exact bindingsLawful_modLine p (by rw [before]; exact gone)

/-! ## Every update -/

/-- The law of the modes with the law of the bindings: a mode is entered only where no call is open. -/
def State.boundLawful (s : State) : Prop := s.modesLawful ∧ s.bindingsLawful

theorem lineClosed_boundLawful (n : LineId) : LineClosed n State.boundLawful where
  attention _ p := p
  line f p step := ⟨(lineClosed_modesLawful n).line f p.1 step, bindingsLawful_modLine p.2 (pages_lineStep step (p.1 n))⟩
  filter f p step := ⟨(lineClosed_modesLawful n).filter f p.1 step, bindingsLawful_modLine p.2 (pages_lineStep step (p.1 n) :)⟩
  opening p seizing := ⟨(lineClosed_modesLawful n).opening p.1 seizing, bindingsLawful_bind p.2 (by rw [seizing]; rfl) rfl⟩
  clear d p after cause := ⟨(lineClosed_modesLawful n).clear d p.1 after cause, bindingsLawful_clearCall n p.2 after⟩

theorem bound_of_counts {α : Type} {size : Nat} {p q : PagedSet α size} (a : q.boundA = p.boundA) (b : q.boundB = p.boundB)
    (g : Page) : q.bound g = p.bound g := by
  cases g
  · exact a
  · exact b

/-- A change of one set that leaves its two counts leaves every count. -/
theorem bound_vmod {α : Type} {size m : Nat} {v : Vector (PagedSet α size) m} {i : Fin m} {f : PagedSet α size → PagedSet α size}
    (a : (f (v.get i)).boundA = (v.get i).boundA) (b : (f (v.get i)).boundB = (v.get i).boundB) (k : Fin m) (g : Page) :
    ((vmod v i f).get k).bound g = (v.get k).bound g := by
  rw [vget_vmod]
  split
  · rename_i same
    rw [same, bound_of_counts a b]
  · rfl

/-- R86, R101: outside the lines nothing moves a count; a request changes only the other fields of a set. -/
theorem closed_boundLawful : Closed State.boundLawful where
  on := lineClosed_boundLawful
  small p e := by rw [e]; exact p
  config _ p _ := p
  profile _ _ _ p _ := p
  trans _ _ p a b := ⟨p.1, fun k g => (bound_vmod a b k g).trans (p.2.1 k g), p.2.2⟩
  code _ _ p a b := ⟨p.1, p.2.1, fun k g => (bound_vmod a b k g).trans (p.2.2 k g)⟩
  tones _ p := p
  management p e := by rw [e]; exact p
  replies _ p _ := p
  ports p e := by rw [e]; exact p
  paced p := p
  carried p := p
  voice n _ p := ⟨modesLawful_modLine p.1 (p.1 n), bindingsLawful_modLine p.2 rfl⟩
  lu _ p _ := p
  luLock p := p
  luLoss p := p
  luFrame _ p _ := p
  sd _ p _ := p
  sdLock p := p
  sdLoss p := p
  sdFrame _ p _ := p
  reset _ := ⟨reset_modesLawful, reset_bindingsLawful⟩

/-- Settles O8: every update keeps the two laws together. -/
theorem boundCountsStayExact : Obligations.BoundCountsStayExact := fun _ _ modes bindings next =>
  (closed_boundLawful.step (fun _ _ p => p) ⟨modes, bindings⟩ next).2

end Sys2Proof.Machine
end

section
/-! PROOF. O12: a bound page keeps its entries. Entries change only by the requests that name a set, and each of those is refused while
the page that it would change is bound. -/

namespace Sys2Proof.Machine

/-! ## Sets and their checks -/

theorem entries_setEntries {α : Type} {size : Nat} (p : PagedSet α size) (g h : Page) (es : Vector α size) :
    (p.setEntries g es).entries h = if h = g then es else p.entries h := by
  cases g <;> cases h <;> rfl

/-- R89: the three checks pass on an unlocked set, for a page that is neither ACTIVE nor bound. -/
theorem writeRefusal_eq_none {α : Type} {size : Nat} {p : PagedSet α size} {g : Page} :
    p.writeRefusal g = none ↔ p.locked = false ∧ p.active ≠ g ∧ p.bound g = 0 := by
  unfold PagedSet.writeRefusal
  split
  · simp [*]
  · split
    · simp [*]
    · split
      · simp; omega
      · simp [*]; omega

/-- R98: the erasing of a set passes its check where no page is bound. -/
theorem eraseRefusal_eq_none {α : Type} {size : Nat} {p : PagedSet α size} :
    p.eraseRefusal = none ↔ p.boundA = 0 ∧ p.boundB = 0 := by
  unfold PagedSet.eraseRefusal
  split
  · simp; omega
  · simp; omega

/-! ## Bound pages keep their entries -/

/-- The pages that are bound in the one list of sets hold the same entries in the other. -/
def KeepsBound {α : Type} {size m : Nat} (v w : Vector (PagedSet α size) m) : Prop :=
  ∀ k g, 0 < (v.get k).bound g → (w.get k).entries g = (v.get k).entries g

theorem KeepsBound.refl {α : Type} {size m : Nat} (v : Vector (PagedSet α size) m) : KeepsBound v v := fun _ _ _ => rfl

/-- A change of one set that leaves the entries of its bound pages. -/
theorem KeepsBound.vmod {α : Type} {size m : Nat} {v : Vector (PagedSet α size) m} {i : Fin m} {f : PagedSet α size → PagedSet α size}
    (keeps : ∀ g, 0 < (v.get i).bound g → (f (v.get i)).entries g = (v.get i).entries g) : KeepsBound v (vmod v i f) := by
  intro k g bound
  rw [vget_vmod]
  split
  · rename_i same
    subst same
    exact keeps g bound
  · rfl

/-- New entries for a page that is not bound. -/
theorem KeepsBound.setEntries {α : Type} {size m : Nat} {v : Vector (PagedSet α size) m} {i : Fin m} {h : Page}
    (e : PagedSet α size → Vector α size) (pass : (v.get i).writeRefusal h = none) :
    KeepsBound v (Machine.vmod v i fun p => p.setEntries h (e p)) := by
  obtain ⟨_, _, free⟩ := writeRefusal_eq_none.mp pass
  refine .vmod fun g bound => (entries_setEntries _ h g _).trans (if_neg ?_)
  rintro rfl
  omega

/-- The pages that are bound in the one state hold the same entries in the other. -/
def State.keepsBound (s t : State) : Prop := KeepsBound s.xlat t.xlat ∧ KeepsBound s.code t.code

theorem State.keepsBound_refl (s : State) : s.keepsBound s := ⟨.refl _, .refl _⟩

theorem State.keepsBound_trans {s : State} {x : Vector TransSet 8} (keeps : KeepsBound s.xlat x) :
    s.keepsBound { s with xlat := x } := ⟨keeps, .refl _⟩

theorem State.keepsBound_code {s : State} {c : Vector CodeSet 4} (keeps : KeepsBound s.code c) :
    s.keepsBound { s with code := c } := ⟨.refl _, keeps⟩

/-- What changes one line, and of the sets the counts alone. -/
theorem OnlyLine.keepsBound {n : LineId} {s t : State} (h : OnlyLine n s t) : s.keepsBound t :=
  ⟨fun k g _ => sameButBound_entries (h.xlat k) g, fun k g _ => sameButBound_entries (h.code k) g⟩

/-! ## Requests of one line or of none -/

theorem withLine_keeps {P : State → Prop} {s : State} {f : LineId → Executed} (p : P s) (each : ∀ n, P (f n).state)
    (params : List Byte) : P (withLine params s f).state := by
  unfold withLine
  split
  · split
    · exact each _
    · exact p
  · exact p

theorem withNothing_keeps {P : State → Prop} {s : State} {e : Executed} (p : P s) (own : P e.state) (params : List Byte) :
    P (withNothing params s e).state := by
  unfold withNothing
  split
  · exact own
  · exact p

/-- R25 to R27: a change of mode changes one line, and parking it at most returns bindings. -/
theorem onlyLine_requestMode {n : LineId} {s t : State} (h : OnlyLine n s t) (m : Mode) : OnlyLine n s (requestMode n m t).1 := by
  have moves := lineMoves_onlyLine n s
  unfold requestMode
  dsimp only
  split
  · dsimp only
    split
    · exact h
    · exact moves.line _ (moves.clearCall .idle h)
  · split
    · exact moves.line _ h
    · split <;> exact moves.line _ h

theorem onlyLine_lineReset (n : LineId) (s : State) : OnlyLine n s (lineReset n s) :=
  have moves := lineMoves_onlyLine n s
  moves.becomeIdle (moves.line _ (moves.clearCall .idle (.refl n s)))

theorem keepsBound_reqLineConfig (params : List Byte) (s : State) : s.keepsBound (reqLineConfig params s).state := by
  unfold reqLineConfig
  split
  · exact s.keepsBound_refl
  · split
    · exact s.keepsBound_refl
    · split
      · split
        · exact (onlyLine_requestMode ((lineMoves_onlyLine _ s).mapped _ (.refl _ s)) _).keepsBound
        · exact s.keepsBound_refl
      · exact s.keepsBound_refl

theorem keepsBound_reqPartConfig (params : List Byte) (s : State) : s.keepsBound (reqPartConfig params s).state := by
  unfold reqPartConfig
  split
  · exact s.keepsBound_refl
  · split
    · dsimp only
      split <;> exact s.keepsBound_refl
    · exact s.keepsBound_refl

theorem keepsBound_reqProfileWrite (params : List Byte) (s : State) : s.keepsBound (reqProfileWrite params s).state := by
  unfold reqProfileWrite
  split
  · exact s.keepsBound_refl
  · split
    · exact s.keepsBound_refl
    · split
      · dsimp only
        split
        · exact s.keepsBound_refl
        · split <;> exact s.keepsBound_refl
      · exact s.keepsBound_refl

theorem keepsBound_reqProfileRead (params : List Byte) (s : State) : s.keepsBound (reqProfileRead params s).state := by
  unfold reqProfileRead
  split
  · split <;> exact s.keepsBound_refl
  · exact s.keepsBound_refl

theorem keepsBound_reqToneInsert (params : List Byte) (s : State) : s.keepsBound (reqToneInsert params s).state := by
  unfold reqToneInsert
  split
  · split
    · exact s.keepsBound_refl
    · split
      · split
        · exact s.keepsBound_refl
        · split <;> exact s.keepsBound_refl
      · exact s.keepsBound_refl
  · exact s.keepsBound_refl

theorem keepsBound_setHold (hold : Bool) (n : LineId) (s : State) : s.keepsBound (setHold hold n s).state := by
  unfold setHold
  split <;> exact s.keepsBound_refl

/-! ## The cursor and the tables -/

theorem keepsBound_reqCursorSet (params : List Byte) (s : State) : s.keepsBound (reqCursorSet params s).state := by
  unfold reqCursorSet
  split
  · split
    · exact s.keepsBound_refl
    · exact s.keepsBound_refl
    · exact s.keepsBound_refl
    · split <;> exact s.keepsBound_refl
  · exact s.keepsBound_refl

theorem keepsBound_reqTableRead (params : List Byte) (s : State) : s.keepsBound (reqTableRead params s).state := by
  unfold reqTableRead
  split
  · dsimp only
    split
    · exact s.keepsBound_refl
    · split
      · exact s.keepsBound_refl
      · split <;> exact s.keepsBound_refl
  · exact s.keepsBound_refl

theorem keepsBound_reqTableCompare (params : List Byte) (s : State) : s.keepsBound (reqTableCompare params s).state := by
  unfold reqTableCompare
  split
  · exact s.keepsBound_refl
  · split
    · exact s.keepsBound_refl
    · split
      · exact s.keepsBound_refl
      · split
        · exact s.keepsBound_refl
        · unfold compareEntries
          split <;> exact s.keepsBound_refl

/-- R88, R89: a page is written only where no call is bound to it. -/
theorem keepsBound_reqTableWrite (params : List Byte) (s : State) : s.keepsBound (reqTableWrite params s).state := by
  unfold reqTableWrite
  split
  · unfold writeTrans
    split
    · exact s.keepsBound_refl
    · split
      · exact s.keepsBound_refl
      · rename_i pass
        split
        · exact s.keepsBound_refl
        · split
          · exact s.keepsBound_refl
          · exact State.keepsBound_trans (.setEntries _ pass)
  · unfold writeCode
    split
    · exact s.keepsBound_refl
    · split
      · exact s.keepsBound_refl
      · rename_i pass
        split
        · exact s.keepsBound_refl
        · split
          · exact s.keepsBound_refl
          · exact State.keepsBound_code (.setEntries _ pass)
  · unfold writeTones
    split
    · exact s.keepsBound_refl
    · dsimp only
      split <;> exact s.keepsBound_refl

/-- R88, R93: a page is cleared only where no call is bound to it. -/
theorem keepsBound_reqTableClear (params : List Byte) (s : State) : s.keepsBound (reqTableClear params s).state := by
  refine withNothing_keeps s.keepsBound_refl ?_ params
  split
  · split
    · exact s.keepsBound_refl
    · rename_i pass
      exact State.keepsBound_trans (.setEntries _ pass)
  · split
    · exact s.keepsBound_refl
    · rename_i pass
      exact State.keepsBound_code (.setEntries _ pass)
  · exact s.keepsBound_refl

theorem keepsBound_reqTableClearcheck (params : List Byte) (s : State) : s.keepsBound (reqTableClearcheck params s).state := by
  refine withNothing_keeps s.keepsBound_refl ?_ params
  split <;> exact s.keepsBound_refl

/-! ## Set requests -/

theorem keepsBound_onTransSet {refusal : TransSet → Option RefusalCode} {change : TransSet → TransSet}
    (keeps : ∀ p g, refusal p = none → 0 < p.bound g → (change p).entries g = p.entries g) (k : Fin 8) (s : State) :
    s.keepsBound (onTransSet k refusal change s).state := by
  unfold onTransSet
  split
  · exact s.keepsBound_refl
  · rename_i pass
    exact State.keepsBound_trans (.vmod fun g => keeps _ g pass)

theorem keepsBound_onCodeSet {refusal : CodeSet → Option RefusalCode} {change : CodeSet → CodeSet}
    (keeps : ∀ p g, refusal p = none → 0 < p.bound g → (change p).entries g = p.entries g) (k : Fin 4) (s : State) :
    s.keepsBound (onCodeSet k refusal change s).state := by
  unfold onCodeSet
  split
  · exact s.keepsBound_refl
  · rename_i pass
    exact State.keepsBound_code (.vmod fun g => keeps _ g pass)

/-- A set request keeps the entries of bound pages if its change does wherever its check passes. -/
theorem keepsBound_onSet {refusalT : TransSet → Option RefusalCode} {changeT : TransSet → TransSet}
    {refusalC : CodeSet → Option RefusalCode} {changeC : CodeSet → CodeSet}
    (trans : ∀ p g, refusalT p = none → 0 < p.bound g → (changeT p).entries g = p.entries g)
    (code : ∀ p g, refusalC p = none → 0 < p.bound g → (changeC p).entries g = p.entries g) (params : List Byte) (s : State) :
    s.keepsBound (onSet params s (fun k => onTransSet k refusalT changeT s) fun k => onCodeSet k refusalC changeC s).state := by
  unfold onSet
  split
  · split
    · exact s.keepsBound_refl
    · split
      · exact s.keepsBound_refl
      · exact keepsBound_onTransSet trans _ s
      · exact keepsBound_onCodeSet code _ s
      · exact s.keepsBound_refl
  · exact s.keepsBound_refl

theorem entries_swap {α : Type} {size : Nat} (p : PagedSet α size) (g : Page) : p.swap.entries g = p.entries g := by
  cases g <;> rfl

theorem entries_lock {α : Type} {size : Nat} (p : PagedSet α size) (g : Page) : p.lock.entries g = p.entries g := by
  cases g <;> rfl

/-- R98: a set with a bound page is not erased. -/
theorem bound_of_eraseRefusal {α : Type} {size : Nat} {p : PagedSet α size} (pass : p.eraseRefusal = none) (g : Page) :
    p.bound g = 0 := by
  obtain ⟨a, b⟩ := eraseRefusal_eq_none.mp pass
  cases g
  · exact a
  · exact b

/-! ## Every request -/

theorem keepsBound_runRequest (k : RequestKind) (params : List Byte) (s : State) : s.keepsBound (runRequest k params s).state := by
  have same := s.keepsBound_refl
  cases k with
  | identify => exact withNothing_keeps same same params
  | partStatus => exact withNothing_keeps same same params
  | partConfig => exact keepsBound_reqPartConfig params s
  | lineStatus => exact withLine_keeps same (fun _ => same) params
  | lineConfig => exact keepsBound_reqLineConfig params s
  | lineReset => exact withLine_keeps same (fun n => (onlyLine_lineReset n s).keepsBound) params
  | profileWrite => exact keepsBound_reqProfileWrite params s
  | profileRead => exact keepsBound_reqProfileRead params s
  | cursorSet => exact keepsBound_reqCursorSet params s
  | tableWrite => exact keepsBound_reqTableWrite params s
  | tableRead => exact keepsBound_reqTableRead params s
  | tableCompare => exact keepsBound_reqTableCompare params s
  | tableClear => exact keepsBound_reqTableClear params s
  | tableClearcheck => exact keepsBound_reqTableClearcheck params s
  | setSwap => exact keepsBound_onSet (fun p g _ _ => entries_swap p g) (fun p g _ _ => entries_swap p g) params s
  | setLock => exact keepsBound_onSet (fun p g _ _ => entries_lock p g) (fun p g _ _ => entries_lock p g) params s
  | setErase =>
    exact keepsBound_onSet (fun _ g pass bound => absurd (bound_of_eraseRefusal pass g) bound.ne')
      (fun _ g pass bound => absurd (bound_of_eraseRefusal pass g) bound.ne') params s
  | toneInsert => exact keepsBound_reqToneInsert params s
  | emitHold => exact withLine_keeps same (fun n => keepsBound_setHold true n s) params
  | emitResume => exact withLine_keeps same (fun n => keepsBound_setHold false n s) params
  | captureRead => exact withLine_keeps same (fun _ => same) params
  | qualityRead =>
    refine withLine_keeps same (fun n => ?_) params
    show s.keepsBound (match (s.line n).config.meterMode with
      | .resetOnRead => s.modQuality n fun q => { q with extremes := none }
      | .hold => s)
    split <;> exact same
  | softReset =>
    refine withNothing_keeps same ?_ params
    split <;> exact same

/-- Settles O12. -/
theorem boundPagesKeepTheirEntries : Obligations.BoundPagesKeepTheirEntries := by
  intro r s
  show s.keepsBound (answerRequest r s).state
  unfold answerRequest
  split
  · exact s.keepsBound_refl
  · exact keepsBound_runRequest _ _ s

end Sys2Proof.Machine
end

section
/-! PROOF. O58: SET-SWAP, SET-LOCK and SET-ERASE. Their shared checks name the set; the set's own check then refuses or the change is
made and acknowledged with the set's state. -/

namespace Sys2Proof.Machine

/-! ## The set that a request names -/

theorem tableOf_trans (k : Fin 8) : tableOf 0 (octet k.val) = .ok (.trans k) := by
  revert k
  decide

theorem tableOf_codeSet (k : Fin 4) : tableOf 1 (octet k.val) = .ok (.code k) := by
  revert k
  decide

/-- R95, R170: the codes of no kind. -/
theorem tableOf_value {kind : Byte} (other : 2 < kind.toNat) (set : Byte) : tableOf kind set = .error .value := by
  have notTrans : kind ≠ 0 := by rintro rfl; exact absurd other (by decide)
  have notCode : kind ≠ 1 := by rintro rfl; exact absurd other (by decide)
  have notTone : kind ≠ 2 := by rintro rfl; exact absurd other (by decide)
  simp only [tableOf, notTrans, notCode, notTone, if_false]

theorem tableOf_range {kind set : Byte} (outside : kind = 0 ∧ 8 ≤ set.toNat ∨ kind = 1 ∧ 4 ≤ set.toNat) :
    tableOf kind set = .error .range := by
  rcases outside with ⟨rfl, above⟩ | ⟨rfl, above⟩ <;> simp [tableOf, Nat.not_lt.mpr above]

theorem onSet_ok_trans {kind set : Byte} {k : Fin 8} (notTone : kind ≠ 2) (names : tableOf kind set = .ok (.trans k)) (s : State)
    (f : Fin 8 → Executed) (g : Fin 4 → Executed) : onSet [kind, set] s f g = f k := by
  simp only [onSet, if_neg notTone, names]

theorem onSet_ok_code {kind set : Byte} {k : Fin 4} (notTone : kind ≠ 2) (names : tableOf kind set = .ok (.code k)) (s : State)
    (f : Fin 8 → Executed) (g : Fin 4 → Executed) : onSet [kind, set] s f g = g k := by
  simp only [onSet, if_neg notTone, names]

theorem onSet_error {kind set : Byte} {c : RefusalCode} (notTone : kind ≠ 2) (names : tableOf kind set = .error c) (s : State)
    (f : Fin 8 → Executed) (g : Fin 4 → Executed) : onSet [kind, set] s f g = refuseWith s c := by
  simp only [onSet, if_neg notTone, names]

/-- R95: TONE and the codes of no kind. -/
theorem onSet_value {kind : Byte} (other : 2 ≤ kind.toNat) (set : Byte) (s : State) (f : Fin 8 → Executed) (g : Fin 4 → Executed) :
    onSet [kind, set] s f g = refuseWith s .value := by
  by_cases tone : kind = 2
  · simp only [onSet, if_pos tone]
  · have above : 2 < kind.toNat := Nat.lt_of_le_of_ne other fun e => tone (BitVec.eq_of_toNat_eq e.symm)
    exact onSet_error tone (tableOf_value above set) s f g

/-- R95: a set outside the range of its kind. -/
theorem onSet_range {kind set : Byte} (outside : kind = 0 ∧ 8 ≤ set.toNat ∨ kind = 1 ∧ 4 ≤ set.toNat) (s : State)
    (f : Fin 8 → Executed) (g : Fin 4 → Executed) : onSet [kind, set] s f g = refuseWith s .range := by
  refine onSet_error ?_ (tableOf_range outside) s f g
  rcases outside with ⟨rfl, _⟩ | ⟨rfl, _⟩ <;> decide

/-! ## The check and the change of a set -/

theorem lockRefusal_locked {α : Type} {size : Nat} {p : PagedSet α size} (h : p.locked = true) : p.lockRefusal = some .locked :=
  if_pos h

theorem lockRefusal_unlocked {α : Type} {size : Nat} {p : PagedSet α size} (h : p.locked = false) : p.lockRefusal = none :=
  if_neg (by simp [h])

theorem eraseRefusal_bound {α : Type} {size : Nat} {p : PagedSet α size} (h : 0 < p.boundA ∨ 0 < p.boundB) :
    p.eraseRefusal = some .bound := if_pos h

theorem report_swap {α : Type} {size : Nat} {p : PagedSet α size} (unlocked : p.locked = false) :
    p.swap.report = .setState p.active.other false p.boundA p.boundB := by simp [PagedSet.swap, PagedSet.report, unlocked]

theorem report_lock {α : Type} {size : Nat} (p : PagedSet α size) : p.lock.report = .setState p.active true p.boundA p.boundB := rfl

/-- R98: a set without a bound page is erased to the cleared set. -/
theorem erase_unbound {α : Type} {size : Nat} {p : PagedSet α size} (a : p.boundA = 0) (b : p.boundB = 0) (v : α) :
    p.erase v = PagedSet.cleared v := by simp [PagedSet.erase, PagedSet.cleared, a, b]

theorem vmod_congr {α : Type} {size : Nat} {v : Vector α size} {i : Fin size} {f g : α → α} (h : f (v.get i) = g (v.get i)) :
    vmod v i f = vmod v i g := by rw [vmod, vmod, h]

section
variable {s : State} {c : RefusalCode} (tag kind : Byte)

theorem replied_onTransSet_refused {k : Fin 8} {refusal : TransSet → Option RefusalCode} (h : refusal (s.xlat.get k) = some c)
    (change : TransSet → TransSet) : (onTransSet k refusal change s).replied s tag kind = s.refusedBy tag kind c := by
  simp [onTransSet, h, replied_refuseWith]

theorem replied_onTransSet_changed {k : Fin 8} {refusal : TransSet → Option RefusalCode} (h : refusal (s.xlat.get k) = none)
    (change : TransSet → TransSet) : (onTransSet k refusal change s).replied s tag kind =
      { s with xlat := vmod s.xlat k change }.acked tag kind (change (s.xlat.get k)).report := by
  simp only [onTransSet, h]
  exact replied_ackWith _ _ _ rfl

theorem replied_onCodeSet_refused {k : Fin 4} {refusal : CodeSet → Option RefusalCode} (h : refusal (s.code.get k) = some c)
    (change : CodeSet → CodeSet) : (onCodeSet k refusal change s).replied s tag kind = s.refusedBy tag kind c := by
  simp [onCodeSet, h, replied_refuseWith]

theorem replied_onCodeSet_changed {k : Fin 4} {refusal : CodeSet → Option RefusalCode} (h : refusal (s.code.get k) = none)
    (change : CodeSet → CodeSet) : (onCodeSet k refusal change s).replied s tag kind =
      { s with code := vmod s.code k change }.acked tag kind (change (s.code.get k)).report := by
  simp only [onCodeSet, h]
  exact replied_ackWith _ _ _ rfl

end

/-! ## The three requests -/

theorem exec_setSwap_trans {s : State} (ready : s.ready) (tag : Byte) (k : Fin 8) : exec (.setSwap tag [0, octet k.val]) s =
    .next ((onTransSet k PagedSet.lockRefusal PagedSet.swap s).replied s tag 0x0F) := by
  rw [exec_setSwap_ready ready tag (by simp), reqSetSwap, onSet_ok_trans (by decide) (tableOf_trans k)]

theorem exec_setLock_trans {s : State} (ready : s.ready) (tag : Byte) (k : Fin 8) : exec (.setLock tag [0, octet k.val]) s =
    .next ((onTransSet k PagedSet.lockRefusal PagedSet.lock s).replied s tag 0x10) := by
  rw [exec_setLock_ready ready tag (by simp), reqSetLock, onSet_ok_trans (by decide) (tableOf_trans k)]

theorem exec_setErase_trans {s : State} (ready : s.ready) (tag : Byte) (k : Fin 8) : exec (.setErase tag [0, octet k.val]) s =
    .next ((onTransSet k PagedSet.eraseRefusal (PagedSet.erase .reject) s).replied s tag 0x11) := by
  rw [exec_setErase_ready ready tag (by simp), reqSetErase, onSet_ok_trans (by decide) (tableOf_trans k)]

theorem exec_setSwap_code {s : State} (ready : s.ready) (tag : Byte) (k : Fin 4) : exec (.setSwap tag [1, octet k.val]) s =
    .next ((onCodeSet k PagedSet.lockRefusal PagedSet.swap s).replied s tag 0x0F) := by
  rw [exec_setSwap_ready ready tag (by simp), reqSetSwap, onSet_ok_code (by decide) (tableOf_codeSet k)]

theorem exec_setLock_code {s : State} (ready : s.ready) (tag : Byte) (k : Fin 4) : exec (.setLock tag [1, octet k.val]) s =
    .next ((onCodeSet k PagedSet.lockRefusal PagedSet.lock s).replied s tag 0x10) := by
  rw [exec_setLock_ready ready tag (by simp), reqSetLock, onSet_ok_code (by decide) (tableOf_codeSet k)]

theorem exec_setErase_code {s : State} (ready : s.ready) (tag : Byte) (k : Fin 4) : exec (.setErase tag [1, octet k.val]) s =
    .next ((onCodeSet k PagedSet.eraseRefusal (PagedSet.erase CodeEntry.cleared) s).replied s tag 0x11) := by
  rw [exec_setErase_ready ready tag (by simp), reqSetErase, onSet_ok_code (by decide) (tableOf_codeSet k)]

/-- The shared checks refuse the three requests alike (R95). -/
theorem exec_setRequests_refused {s : State} {params : List Byte} {c : RefusalCode} (ready : s.ready) (tag : Byte)
    (fit : params.length ≤ 62) (refused : ∀ f g, onSet params s f g = refuseWith s c) :
    exec (.setSwap tag params) s = .next (s.refusedBy tag 0x0F c) ∧ exec (.setLock tag params) s = .next (s.refusedBy tag 0x10 c) ∧
      exec (.setErase tag params) s = .next (s.refusedBy tag 0x11 c) := by
  rw [exec_setSwap_ready ready tag fit, exec_setLock_ready ready tag fit, exec_setErase_ready ready tag fit, reqSetSwap, reqSetLock,
    reqSetErase, refused, refused, refused]
  exact ⟨rfl, rfl, rfl⟩

/-- Settles O58. -/
theorem setRequestsChangeTheirSet : Obligations.SetRequestsChangeTheirSet := by
  refine ⟨fun s tag k ready => ?_, fun s tag k ready => ?_, fun s tag kind set ready =>
    ⟨fun other => exec_setRequests_refused ready tag (by simp) (onSet_value other set s),
      fun outside => exec_setRequests_refused ready tag (by simp) (onSet_range outside s)⟩⟩
  · rw [exec_setSwap_trans ready, exec_setLock_trans ready, exec_setErase_trans ready]
    refine ⟨fun locked => ?_, fun unlocked => ?_, fun bound => ?_, fun a b => ?_⟩
    · have refused := lockRefusal_locked locked
      rw [replied_onTransSet_refused _ _ refused, replied_onTransSet_refused _ _ refused]
      exact ⟨rfl, rfl⟩
    · have pass := lockRefusal_unlocked unlocked
      rw [replied_onTransSet_changed _ _ pass, replied_onTransSet_changed _ _ pass, report_swap unlocked, report_lock]
      exact ⟨rfl, rfl⟩
    · rw [replied_onTransSet_refused _ _ (eraseRefusal_bound bound)]
    · have erased := erase_unbound a b TransValue.reject
      rw [replied_onTransSet_changed _ _ (eraseRefusal_eq_none.mpr ⟨a, b⟩), erased,
        vmod_congr (g := fun _ => PagedSet.cleared .reject) erased]
      rfl
  · rw [exec_setSwap_code ready, exec_setLock_code ready, exec_setErase_code ready]
    refine ⟨fun locked => ?_, fun unlocked => ?_, fun bound => ?_, fun a b => ?_⟩
    · have refused := lockRefusal_locked locked
      rw [replied_onCodeSet_refused _ _ refused, replied_onCodeSet_refused _ _ refused]
      exact ⟨rfl, rfl⟩
    · have pass := lockRefusal_unlocked unlocked
      rw [replied_onCodeSet_changed _ _ pass, replied_onCodeSet_changed _ _ pass, report_swap unlocked, report_lock]
      exact ⟨rfl, rfl⟩
    · rw [replied_onCodeSet_refused _ _ (eraseRefusal_bound bound)]
    · have erased := erase_unbound a b CodeEntry.cleared
      rw [replied_onCodeSet_changed _ _ (eraseRefusal_eq_none.mpr ⟨a, b⟩), erased,
        vmod_congr (g := fun _ => PagedSet.cleared CodeEntry.cleared) erased]
      rfl

end Sys2Proof.Machine
end

section
/-! PROOF. O57: TABLE-CLEAR and TABLE-CLEARCHECK on the table that the cursor names. -/

namespace Sys2Proof.Machine

/-- The reply of an execution known to be an acknowledgement. -/
theorem replied_of_ackWith {e : Executed} {s t : State} {r : Result} (h : e = ackWith t r) (same : t.replies = s.replies)
    (tag kind : Byte) : e.replied s tag kind = t.acked tag kind r := by
  rw [h, replied_ackWith r tag kind same]

/-! ## The checks of R89 -/

theorem writeRefusal_locked {α : Type} {size : Nat} {p : PagedSet α size} (locked : p.locked = true) (g : Page) :
    p.writeRefusal g = some .locked := by simp [PagedSet.writeRefusal, locked]

theorem writeRefusal_active {α : Type} {size : Nat} {p : PagedSet α size} {g : Page} (unlocked : p.locked = false)
    (active : p.active = g) : p.writeRefusal g = some .active := by simp [PagedSet.writeRefusal, unlocked, active]

theorem writeRefusal_bound {α : Type} {size : Nat} {p : PagedSet α size} {g : Page} (unlocked : p.locked = false)
    (inactive : p.active ≠ g) (bound : 0 < p.bound g) : p.writeRefusal g = some .bound := by
  simp [PagedSet.writeRefusal, unlocked, inactive, bound]

/-! ## The table that the cursor names -/

section
variable {s : State}

theorem cursorReadRefusal_trans {k : Fin 8} (table : s.cursor.table = .trans k) :
    s.cursorReadRefusal = if (s.xlat.get k).locked then some .locked else none := by
  simp [State.cursorReadRefusal, table, PagedSet.readRefusal]

theorem cursorReadRefusal_code {k : Fin 4} (table : s.cursor.table = .code k) :
    s.cursorReadRefusal = if (s.code.get k).locked then some .locked else none := by
  simp [State.cursorReadRefusal, table, PagedSet.readRefusal]

theorem cursorReadRefusal_tone (table : s.cursor.table = .tone) : s.cursorReadRefusal = none := by
  simp [State.cursorReadRefusal, table]

theorem cursorEntries_trans {k : Fin 8} (table : s.cursor.table = .trans k) :
    s.cursorEntries = ((s.xlat.get k).entries s.cursor.page).toList.map .trans := by
  simp [State.cursorEntries, table]

theorem cursorEntries_code {k : Fin 4} (table : s.cursor.table = .code k) :
    s.cursorEntries = ((s.code.get k).entries s.cursor.page).toList.map .code := by
  simp [State.cursorEntries, table]

theorem cursorEntries_tone (table : s.cursor.table = .tone) : s.cursorEntries = s.tones.toList.map .tone := by
  simp [State.cursorEntries, table]

theorem cursorCleared_trans {k : Fin 8} (table : s.cursor.table = .trans k) :
    s.cursorCleared = (Vector.replicate 20 TransValue.reject).toList.map .trans := by
  simp [State.cursorCleared, table]

theorem cursorCleared_code {k : Fin 4} (table : s.cursor.table = .code k) :
    s.cursorCleared = (Vector.replicate 16 CodeEntry.cleared).toList.map .code := by
  simp [State.cursorCleared, table]

theorem cursorCleared_tone (table : s.cursor.table = .tone) : s.cursorCleared = State.reset.tones.toList.map .tone := by
  simp [State.cursorCleared, table, State.reset]

end

/-! ## The first difference of two lists of entries -/

theorem firstMismatch_self (o : Nat) (es : List Entry) : firstMismatch o es es = none := by
  induction es generalizing o with
  | nil => rfl
  | cons e es ih => rw [firstMismatch, if_pos rfl, ih]

/-- R92: stored entries that go on past the supplied ones are not compared. -/
theorem firstMismatch_leading (o : Nat) {stored supplied : List Entry} (same : stored.take supplied.length = supplied) :
    firstMismatch o stored supplied = none := by
  induction supplied generalizing o stored with
  | nil => cases stored <;> rfl
  | cons u us ih =>
    cases stored with
    | nil => rfl
    | cons x xs =>
      obtain ⟨head, tail⟩ := List.cons.inj same
      rw [firstMismatch, if_pos head, ih _ tail]

theorem firstMismatch_at (o : Nat) {stored supplied : List Entry} {i : Nat} {x u : Entry} (below : stored.take i = supplied.take i)
    (holds : stored[i]? = some x) (carries : supplied[i]? = some u) (differ : x ≠ u) :
    firstMismatch o stored supplied = some (o + i, x, u) := by
  induction i generalizing o stored supplied with
  | zero =>
    obtain ⟨xs, rfl⟩ : ∃ xs, stored = x :: xs := List.head?_eq_some_iff.mp (List.head?_eq_getElem?.trans holds)
    obtain ⟨us, rfl⟩ : ∃ us, supplied = u :: us := List.head?_eq_some_iff.mp (List.head?_eq_getElem?.trans carries)
    rw [firstMismatch, if_neg differ, Nat.add_zero]
  | succ i ih =>
    cases stored with
    | nil => cases holds
    | cons y ys =>
      cases supplied with
      | nil => cases carries
      | cons v vs =>
        obtain ⟨head, tail⟩ := List.cons.inj below
        rw [firstMismatch, if_pos head, ih _ tail holds carries, Nat.add_right_comm, Nat.add_assoc]

/-- The lowest offset at which two tables of one kind differ. -/
theorem firstMismatch_tables {α : Type} {size : Nat} {kind : α → Entry} (injective : Function.Injective kind)
    {v w : Vector α size} {j : Fin size} (differ : v.get j ≠ w.get j) (below : ∀ i, i < j → v.get i = w.get i) :
    firstMismatch 0 (v.toList.map kind) (w.toList.map kind) = some (j.val, kind (v.get j), kind (w.get j)) := by
  have same : (v.toList.map kind).take j.val = (w.toList.map kind).take j.val := by
    refine List.ext_getElem (by simp) fun i first second => ?_
    have lower : i < j.val := (List.length_take_le _ _).trans_lt' first
    have equal := below ⟨i, lower.trans j.isLt⟩ lower
    simp only [Vector.get_eq_getElem] at equal
    simp [equal]
  rw [firstMismatch_at 0 same (x := kind (v.get j)) (u := kind (w.get j)) (by simp [Vector.get_eq_getElem])
    (by simp [Vector.get_eq_getElem]) (injective.ne differ), Nat.zero_add]

theorem trans_injective : Function.Injective Entry.trans := fun _ _ => Entry.trans.inj

theorem code_injective : Function.Injective Entry.code := fun _ _ => Entry.code.inj

theorem tone_injective : Function.Injective Entry.tone := fun _ _ => Entry.tone.inj

/-! ## TABLE-CLEARCHECK -/

section
variable {s : State} (ready : s.ready) (tag : Byte)
include ready

theorem exec_tableClearcheck_refused {c : RefusalCode} (refused : s.cursorReadRefusal = some c) :
    exec (.tableClearcheck tag []) s = .next (s.refusedBy tag 0x0E c) := by
  rw [exec_tableClearcheck_ready ready tag (by simp)]
  simp [reqTableClearcheck, withNothing, refused, replied_refuseWith]

theorem exec_tableClearcheck_passes (pass : s.cursorReadRefusal = none) : exec (.tableClearcheck tag []) s =
    .next (s.acked tag 0x0E (.clearCheck ((firstMismatch 0 s.cursorEntries s.cursorCleared).map fun x => (x.1, x.2.1)))) := by
  rw [exec_tableClearcheck_ready ready tag (by simp)]
  refine congrArg _ (replied_of_ackWith ?_ (by rfl) tag 0x0E)
  simp [reqTableClearcheck, withNothing, pass]

/-- R94: a table that holds its cleared values. -/
theorem exec_tableClearcheck_clear (pass : s.cursorReadRefusal = none) (cleared : s.cursorEntries = s.cursorCleared) :
    exec (.tableClearcheck tag []) s = .next (s.acked tag 0x0E (.clearCheck none)) := by
  rw [exec_tableClearcheck_passes ready tag pass, cleared, firstMismatch_self]
  rfl

/-- R94: the lowest entry that is not the cleared value. -/
theorem exec_tableClearcheck_found {α : Type} {size : Nat} {kind : α → Entry} (injective : Function.Injective kind)
    {v w : Vector α size} (pass : s.cursorReadRefusal = none) (holds : s.cursorEntries = v.toList.map kind)
    (cleared : s.cursorCleared = w.toList.map kind) {j : Fin size} (differ : v.get j ≠ w.get j)
    (below : ∀ i, i < j → v.get i = w.get i) :
    exec (.tableClearcheck tag []) s = .next (s.acked tag 0x0E (.clearCheck (some (j.val, kind (v.get j))))) := by
  rw [exec_tableClearcheck_passes ready tag pass, holds, cleared, firstMismatch_tables injective differ below]
  rfl

/-! ## TABLE-CLEAR -/

theorem exec_tableClear_trans_refused {k : Fin 8} {c : RefusalCode} (table : s.cursor.table = .trans k)
    (refused : (s.xlat.get k).writeRefusal s.cursor.page = some c) :
    exec (.tableClear tag []) s = .next (s.refusedBy tag 0x0D c) := by
  rw [exec_tableClear_ready ready tag (by simp)]
  simp [reqTableClear, withNothing, table, refused, replied_refuseWith]

theorem exec_tableClear_trans {k : Fin 8} (table : s.cursor.table = .trans k)
    (pass : (s.xlat.get k).writeRefusal s.cursor.page = none) : exec (.tableClear tag []) s =
      .next ({ s with xlat := vmod s.xlat k fun p => p.setEntries s.cursor.page (Vector.replicate 20 .reject) }.acked
        tag 0x0D .nothing) := by
  rw [exec_tableClear_ready ready tag (by simp)]
  refine congrArg _ (replied_of_ackWith ?_ (by rfl) tag 0x0D)
  simp [reqTableClear, withNothing, table, pass]

theorem exec_tableClear_code_refused {k : Fin 4} {c : RefusalCode} (table : s.cursor.table = .code k)
    (refused : (s.code.get k).writeRefusal s.cursor.page = some c) :
    exec (.tableClear tag []) s = .next (s.refusedBy tag 0x0D c) := by
  rw [exec_tableClear_ready ready tag (by simp)]
  simp [reqTableClear, withNothing, table, refused, replied_refuseWith]

theorem exec_tableClear_code {k : Fin 4} (table : s.cursor.table = .code k)
    (pass : (s.code.get k).writeRefusal s.cursor.page = none) : exec (.tableClear tag []) s =
      .next ({ s with code := vmod s.code k fun p => p.setEntries s.cursor.page (Vector.replicate 16 CodeEntry.cleared) }.acked
        tag 0x0D .nothing) := by
  rw [exec_tableClear_ready ready tag (by simp)]
  refine congrArg _ (replied_of_ackWith ?_ (by rfl) tag 0x0D)
  simp [reqTableClear, withNothing, table, pass]

theorem exec_tableClear_tone (table : s.cursor.table = .tone) : exec (.tableClear tag []) s =
    .next ({ s with tones := State.reset.tones }.acked tag 0x0D .nothing) := by
  rw [exec_tableClear_ready ready tag (by simp)]
  refine congrArg _ (replied_of_ackWith ?_ (by rfl) tag 0x0D)
  simp [reqTableClear, withNothing, table, State.reset]

end

/-- Settles O57. -/
theorem tablesAreClearedAndChecked : Obligations.TablesAreClearedAndChecked := by
  refine ⟨fun s tag k ready table => ⟨fun locked => ?_, fun unlocked => ?_⟩,
    fun s tag k ready table => ⟨fun locked => ?_, fun unlocked => ?_⟩,
    fun s tag ready table => ⟨exec_tableClear_tone ready tag table, fun same => ?_, fun j differ below => ?_⟩⟩
  · exact ⟨exec_tableClear_trans_refused ready tag table (writeRefusal_locked locked _),
      exec_tableClearcheck_refused ready tag (by rw [cursorReadRefusal_trans table, if_pos locked])⟩
  · have pass : s.cursorReadRefusal = none := by rw [cursorReadRefusal_trans table, if_neg (by simp [unlocked])]
    refine ⟨fun active => exec_tableClear_trans_refused ready tag table (writeRefusal_active unlocked active),
      fun inactive bound => exec_tableClear_trans_refused ready tag table (writeRefusal_bound unlocked inactive bound),
      fun inactive free => exec_tableClear_trans ready tag table (writeRefusal_eq_none.mpr ⟨unlocked, inactive, free⟩),
      fun clear => exec_tableClearcheck_clear ready tag pass ?_, fun j differ below => ?_⟩
    · rw [cursorEntries_trans table, cursorCleared_trans table,
        vector_ext_get fun j => (clear j).trans (Vector.get_replicate _ _ j).symm]
    · exact exec_tableClearcheck_found ready tag trans_injective pass (cursorEntries_trans table) (cursorCleared_trans table)
        (by rwa [Vector.get_replicate]) fun i lower => by rw [below i lower, Vector.get_replicate]
  · exact ⟨exec_tableClear_code_refused ready tag table (writeRefusal_locked locked _),
      exec_tableClearcheck_refused ready tag (by rw [cursorReadRefusal_code table, if_pos locked])⟩
  · have pass : s.cursorReadRefusal = none := by rw [cursorReadRefusal_code table, if_neg (by simp [unlocked])]
    refine ⟨fun active => exec_tableClear_code_refused ready tag table (writeRefusal_active unlocked active),
      fun inactive bound => exec_tableClear_code_refused ready tag table (writeRefusal_bound unlocked inactive bound),
      fun inactive free => exec_tableClear_code ready tag table (writeRefusal_eq_none.mpr ⟨unlocked, inactive, free⟩),
      fun clear => exec_tableClearcheck_clear ready tag pass ?_, fun j differ below => ?_⟩
    · rw [cursorEntries_code table, cursorCleared_code table,
        vector_ext_get fun j => (clear j).trans (Vector.get_replicate 16 CodeEntry.cleared j).symm]
    · exact exec_tableClearcheck_found ready tag code_injective pass (cursorEntries_code table) (cursorCleared_code table)
        (by rw [Vector.get_replicate]; exact differ) fun i lower => by rw [below i lower, Vector.get_replicate]; rfl
  · exact exec_tableClearcheck_clear ready tag (cursorReadRefusal_tone table)
      (by rw [cursorEntries_tone table, cursorCleared_tone table, same])
  · exact exec_tableClearcheck_found ready tag tone_injective (cursorReadRefusal_tone table) (cursorEntries_tone table)
      (cursorCleared_tone table) differ below

end Sys2Proof.Machine
end

section
/-! PROOF. O56: TABLE-READ and TABLE-COMPARE. What a list of parameters supplies, by the kind of table, is said once; then the checks
and the comparison speak of entries alone. -/

namespace Sys2Proof.Machine

/-- The reply of an execution known to be an acknowledgement that may carry CLAMPED. -/
theorem replied_of_ackClamped {e : Executed} {s t : State} {b : Bool} {r : Result} (h : e = ackClamped t b r)
    (same : t.replies = s.replies) (tag kind : Byte) : e.replied s tag kind = t.replied tag kind (.ack b false r) := by
  rw [h, replied_ackClamped b r tag kind same]

theorem replied_of_refuseWith {e : Executed} {s : State} {c : RefusalCode} (h : e = refuseWith s c) (tag kind : Byte) :
    e.replied s tag kind = s.refusedBy tag kind c := by rw [h, replied_refuseWith]

/-- R90 to R92: the cursor moves if auto-increment is set. -/
theorem moved_eq (c : Cursor) (o : Nat) : c.moved o = { c with offset := if c.autoIncrement then o else c.offset } := by
  unfold Cursor.moved
  split <;> rfl

/-! ## The entries that a request carries -/

theorem transEntries_codes (vs : List TransValue) : transEntries ((vs.map TransValue.code).map fun b => [b]) = some vs := by
  have read : ((vs.map TransValue.code).map fun b => [b]).map (fun bs => transOfCode (bs.getD 0 0)) = vs.map some := by
    simp [transOfCode_code]
  rw [transEntries, read, allSome_map_some]

theorem transEntries_noValue {ps : List Byte} (noValue : ∃ b ∈ ps, 0x12 < b.toNat) :
    transEntries (ps.map fun b => [b]) = none := by
  obtain ⟨b, carried, above⟩ := noValue
  refine allSome_eq_none (List.mem_map.mpr ⟨[b], List.mem_map.mpr ⟨b, carried, rfl⟩, ?_⟩)
  exact transOfCode_none above

theorem codeEntries_read {bss : List (List Byte)} {es : List CodeEntry} (read : bss.map codeEntryOf = es.map some) :
    codeEntries bss = some es := by
  rw [codeEntries, read, allSome_map_some]

theorem codeEntries_noValue {bss : List (List Byte)} (noValue : ∃ bs ∈ bss, codeEntryOf bs = none) : codeEntries bss = none := by
  obtain ⟨bs, carried, none_⟩ := noValue
  exact allSome_eq_none (List.mem_map.mpr ⟨bs, carried, none_⟩)

/-- R133: CLAMPED says that some entry is not the one carried. -/
theorem map_clamped_ne {es : List ToneEntry} : es.map ToneEntry.clamped ≠ es ↔ ∃ e ∈ es, e.clamped ≠ e := by
  have same : es.map ToneEntry.clamped = es ↔ ∀ e ∈ es, e.clamped = e := by
    conv_lhs => rhs; rw [← List.map_id es]
    exact List.map_inj_left
  simp [same]

theorem supplied_of_carries {s : State} {ps : List Byte} {es : List Entry} {clamped : Bool}
    (carries : s.cursor.table.carries ps es clamped) : s.supplied ps = .ok (es, clamped) := by
  unfold State.supplied
  cases table : s.cursor.table with
  | trans k =>
    rw [table] at carries
    obtain ⟨vs, ⟨some_, few⟩, rfl, rfl, rfl⟩ := carries
    simp only [carriedEntries_octets (ps := vs.map TransValue.code) (by simpa using some_) (by simpa using few), transEntries_codes]
  | code k =>
    rw [table] at carries
    obtain ⟨bss, ces, ⟨some_, few⟩, each, rfl, read, rfl, rfl⟩ := carries
    simp only [carriedEntries_flatten (by decide) each some_ few, codeEntries_read read]
  | tone =>
    rw [table] at carries
    obtain ⟨bss, ⟨some_, few⟩, each, rfl, rfl, rfl⟩ := carries
    have flag : decide ((toneEntries bss).map ToneEntry.clamped ≠ toneEntries bss) =
        decide (∃ bs ∈ bss, (toneEntryOf bs).clamped ≠ toneEntryOf bs) := by
      rw [decide_eq_decide, map_clamped_ne]
      simp [toneEntries]
    simp only [carriedEntries_flatten (by decide) each some_ few, flag]
    simp [toneEntries]

theorem supplied_of_carriesNoValue {s : State} {ps : List Byte} (noValue : s.cursor.table.carriesNoValue ps) :
    s.supplied ps = .error .value := by
  unfold State.supplied
  cases table : s.cursor.table with
  | trans k =>
    rw [table] at noValue
    obtain ⟨⟨some_, few⟩, above⟩ := noValue
    simp only [carriedEntries_octets some_ few, transEntries_noValue above]
  | code k =>
    rw [table] at noValue
    obtain ⟨bss, ⟨some_, few⟩, each, rfl, none_⟩ := noValue
    simp only [carriedEntries_flatten (by decide) each some_ few, codeEntries_noValue none_]
  | tone =>
    rw [table] at noValue
    exact noValue.elim

/-- A whole number of entries fits in one message (R161). -/
theorem length_flatten_le {size most : Nat} {bss : List (List Byte)} (each : ∀ bs ∈ bss, bs.length = size)
    (few : bss.length ≤ most) (fit : size * most ≤ 62) : bss.flatten.length ≤ 62 := by
  rw [length_flatten_pieces each]
  exact (Nat.mul_le_mul_left size few).trans fit

theorem length_of_carries {table : TableRef} {ps : List Byte} {es : List Entry} {clamped : Bool}
    (carries : table.carries ps es clamped) : ps.length ≤ 62 := by
  cases table with
  | trans k =>
    obtain ⟨vs, ⟨_, few⟩, rfl, _⟩ := carries
    rw [List.length_map]
    omega
  | code k =>
    obtain ⟨bss, _, ⟨_, few⟩, each, rfl, _⟩ := carries
    exact length_flatten_le each few (by decide)
  | tone =>
    obtain ⟨bss, ⟨_, few⟩, each, rfl, _⟩ := carries
    exact length_flatten_le each few (by decide)

theorem length_of_carriesNoValue {table : TableRef} {ps : List Byte} (noValue : table.carriesNoValue ps) : ps.length ≤ 62 := by
  cases table with
  | trans k =>
    obtain ⟨⟨_, few⟩, _⟩ := noValue
    omega
  | code k =>
    obtain ⟨bss, ⟨_, few⟩, each, rfl, _⟩ := noValue
    exact length_flatten_le each few (by decide)
  | tone => exact noValue.elim

/-! ## TABLE-READ -/

/-- R91: the span lies in the table. -/
theorem inside_span {s : State} {b : Byte} (some_ : b ≠ 0) (inside : s.cursor.offset + b.toNat ≤ s.cursor.table.size) :
    ¬ (b.toNat = 0 ∨ s.cursor.table.size < s.cursor.offset + b.toNat) := by
  rintro (zero | past)
  · exact some_ (BitVec.eq_of_toNat_eq zero)
  · omega

section
variable {s : State} (ready : s.ready) (tag : Byte)
include ready

theorem exec_tableRead_refused {c : RefusalCode} (refused : s.cursorReadRefusal = some c) (b : Byte) :
    exec (.tableRead tag [b]) s = .next (s.refusedBy tag 0x0B c) := by
  rw [exec_tableRead_ready ready tag (by simp)]
  refine congrArg _ (replied_of_refuseWith ?_ tag 0x0B)
  simp only [reqTableRead, refused]

theorem exec_tableRead_range {b : Byte} (pass : s.cursorReadRefusal = none)
    (outside : b = 0 ∨ s.cursor.table.size < s.cursor.offset + b.toNat) :
    exec (.tableRead tag [b]) s = .next (s.refusedBy tag 0x0B .range) := by
  rw [exec_tableRead_ready ready tag (by simp)]
  refine congrArg _ (replied_of_refuseWith ?_ tag 0x0B)
  simp only [reqTableRead, pass]
  exact if_pos (outside.imp_left fun zero => by rw [zero]; rfl)

theorem exec_tableRead_format {b : Byte} (pass : s.cursorReadRefusal = none) (some_ : b ≠ 0)
    (inside : s.cursor.offset + b.toNat ≤ s.cursor.table.size) (many : s.cursor.table.mostRead < b.toNat) :
    exec (.tableRead tag [b]) s = .next (s.refusedBy tag 0x0B .format) := by
  rw [exec_tableRead_ready ready tag (by simp)]
  refine congrArg _ (replied_of_refuseWith ?_ tag 0x0B)
  simp only [reqTableRead, pass]
  rw [if_neg (inside_span some_ inside), if_pos many]

theorem exec_tableRead_entries {b : Byte} (pass : s.cursorReadRefusal = none) (some_ : b ≠ 0)
    (inside : s.cursor.offset + b.toNat ≤ s.cursor.table.size) (few : b.toNat ≤ s.cursor.table.mostRead) {o : Nat}
    (moves : o = if s.cursor.autoIncrement then s.cursor.offset + b.toNat else s.cursor.offset) :
    exec (.tableRead tag [b]) s = .next ({ s with cursor := { s.cursor with offset := o } }.acked tag 0x0B
      (.entries ((s.cursorEntries.drop s.cursor.offset).take b.toNat) s.cursorPageState o)) := by
  rw [exec_tableRead_ready ready tag (by simp)]
  refine congrArg _ (replied_of_ackWith ?_ (by rfl) tag 0x0B)
  simp only [reqTableRead, pass, moved_eq, moves]
  rw [if_neg (inside_span some_ inside), if_neg (Nat.not_lt.mpr few)]

/-! ## TABLE-COMPARE -/

/-- LOCKED comes before VALUE and RANGE: any parameters of a fitting length meet it. -/
theorem exec_tableCompare_refused {ps : List Byte} {c : RefusalCode} (fit : ps.length ≤ 62) (whole : s.supplied ps ≠ .error .format)
    (refused : s.cursorReadRefusal = some c) : exec (.tableCompare tag ps) s = .next (s.refusedBy tag 0x0C c) := by
  rw [exec_tableCompare_ready ready tag fit]
  refine congrArg _ (replied_of_refuseWith ?_ tag 0x0C)
  unfold reqTableCompare
  split
  · exact absurd ‹_› whole
  · simp only [refused]

theorem exec_tableCompare_value {ps : List Byte} (noValue : s.cursor.table.carriesNoValue ps) (pass : s.cursorReadRefusal = none) :
    exec (.tableCompare tag ps) s = .next (s.refusedBy tag 0x0C .value) := by
  rw [exec_tableCompare_ready ready tag (length_of_carriesNoValue noValue)]
  refine congrArg _ (replied_of_refuseWith ?_ tag 0x0C)
  simp only [reqTableCompare, supplied_of_carriesNoValue noValue, pass]

section
variable {ps : List Byte} {es : List Entry} {clamped : Bool} (carries : s.cursor.table.carries ps es clamped)
  (pass : s.cursorReadRefusal = none)
include carries pass

theorem exec_tableCompare_range (past : s.cursor.table.size < s.cursor.offset + es.length) :
    exec (.tableCompare tag ps) s = .next (s.refusedBy tag 0x0C .range) := by
  rw [exec_tableCompare_ready ready tag (length_of_carries carries)]
  refine congrArg _ (replied_of_refuseWith ?_ tag 0x0C)
  simp only [reqTableCompare, supplied_of_carries carries, pass, if_pos past]

theorem exec_tableCompare_compares (inside : s.cursor.offset + es.length ≤ s.cursor.table.size) :
    exec (.tableCompare tag ps) s = .next ((compareEntries es clamped s).replied s tag 0x0C) := by
  rw [exec_tableCompare_ready ready tag (length_of_carries carries)]
  simp only [reqTableCompare, supplied_of_carries carries, pass, if_neg (Nat.not_lt.mpr inside)]

/-- R92: the supplied entries are those stored. -/
theorem exec_tableCompare_match (inside : s.cursor.offset + es.length ≤ s.cursor.table.size)
    (same : (s.cursorEntries.drop s.cursor.offset).take es.length = es) {o : Nat}
    (moves : o = if s.cursor.autoIncrement then s.cursor.offset + es.length else s.cursor.offset) :
    exec (.tableCompare tag ps) s = .next
      ({ s with cursor := { s.cursor with offset := o } }.replied tag 0x0C (.ack clamped false (.compared none o))) := by
  rw [exec_tableCompare_compares ready tag carries pass inside]
  refine congrArg _ (replied_of_ackClamped ?_ (by rfl) tag 0x0C)
  simp only [compareEntries, firstMismatch_leading _ same, moved_eq, moves]

/-- R92: entry `i` of those supplied is the first that differs from the one stored. -/
theorem exec_tableCompare_mismatch (inside : s.cursor.offset + es.length ≤ s.cursor.table.size) {i o : Nat} {x y : Entry}
    (supplied : es[i]? = some x) (stored : s.cursorEntries[s.cursor.offset + i]? = some y) (differ : x ≠ y)
    (below : (s.cursorEntries.drop s.cursor.offset).take i = es.take i)
    (moves : o = if s.cursor.autoIncrement then s.cursor.offset + i + 1 else s.cursor.offset) :
    exec (.tableCompare tag ps) s = .next ({ s with cursor := { s.cursor with offset := o } }.replied tag 0x0C
      (.ack clamped false (.compared (some (s.cursor.offset + i, y, x)) o))) := by
  rw [exec_tableCompare_compares ready tag carries pass inside]
  refine congrArg _ (replied_of_ackClamped ?_ (by rfl) tag 0x0C)
  have first := firstMismatch_at s.cursor.offset below (by rw [List.getElem?_drop, stored]) supplied differ.symm
  simp only [compareEntries, first, moved_eq, moves]

end
end

/-- Settles O56. -/
theorem tablesAreReadAndCompared : Obligations.TablesAreReadAndCompared := by
  refine ⟨fun s tag b o ready moves => ⟨fun locked => exec_tableRead_refused ready tag locked b, fun pass =>
      ⟨fun outside => exec_tableRead_range ready tag pass outside, fun some_ inside =>
        ⟨fun many => exec_tableRead_format ready tag pass some_ inside many,
          fun few => exec_tableRead_entries ready tag pass some_ inside few moves⟩⟩⟩,
    ⟨fun _ => ⟨rfl, rfl⟩, fun _ => ⟨rfl, rfl⟩, rfl, rfl⟩,
    fun s tag ps es clamped ready carries => ⟨fun locked => ?_, fun pass =>
      ⟨fun past => exec_tableCompare_range ready tag carries pass past, fun inside =>
        ⟨fun same o moves => exec_tableCompare_match ready tag carries pass inside same moves,
          fun i o x y supplied stored differ below moves =>
            exec_tableCompare_mismatch ready tag carries pass inside supplied stored differ below moves⟩⟩⟩,
    fun s tag ps ready noValue => ⟨fun locked => ?_, fun pass => exec_tableCompare_value ready tag noValue pass⟩,
    fun s k table => ⟨cursorReadRefusal_trans table, cursorEntries_trans table, by simp [State.cursorPageState, table]⟩,
    fun s k table => ⟨cursorReadRefusal_code table, cursorEntries_code table, by simp [State.cursorPageState, table]⟩,
    fun s table => ⟨cursorReadRefusal_tone table, cursorEntries_tone table, by simp [State.cursorPageState, table]⟩⟩
  · exact exec_tableCompare_refused ready tag (length_of_carries carries) (by rw [supplied_of_carries carries]; exact nofun) locked
  · exact exec_tableCompare_refused ready tag (length_of_carriesNoValue noValue)
      (by rw [supplied_of_carriesNoValue noValue]; exact nofun) locked

end Sys2Proof.Machine
end

section
/-! PROOF. O55: TABLE-WRITE in each kind. A list of fitting length is cut into entries, the checks of R89 follow in order, and an
accepted write stores the entries from the cursor's offset onward. -/

namespace Sys2Proof.Machine

/-! ## Writing at consecutive offsets -/

theorem vget_setIfInBounds {α : Type} {size : Nat} (v : Vector α size) (o : Nat) (x : α) (j : Fin size) :
    (v.setIfInBounds o x).get j = if o = j.val then x else v.get j := by
  simp [Vector.get_eq_getElem, Vector.getElem_setIfInBounds]

/-- R90: the entries written stand from the offset onward, and all others stay. -/
theorem vget_vwrite {α : Type} {size : Nat} (v : Vector α size) (o : Nat) (es : List α) (j : Fin size)
    (inside : o + es.length ≤ size) :
    (vwrite v o es).get j = if o ≤ j.val then es.getD (j.val - o) (v.get j) else v.get j := by
  induction es generalizing v o with
  | nil => simp [vwrite]
  | cons e es ih =>
    rw [List.length_cons] at inside
    rw [vwrite, ih _ _ (by omega), vget_setIfInBounds]
    rcases Nat.lt_trichotomy o j.val with before | here | after
    · obtain ⟨d, shift⟩ : ∃ d, j.val - o = d + 1 := ⟨j.val - o - 1, by omega⟩
      have rest : j.val - (o + 1) = d := by omega
      rw [if_pos (Nat.succ_le_of_lt before), if_neg before.ne, if_pos before.le, shift, rest, List.getD_cons_succ]
    · rw [if_neg (by omega), if_pos here, if_pos here.le, here, Nat.sub_self, List.getD_cons_zero]
    · rw [if_neg (by omega), if_neg (by omega), if_neg (by omega)]

/-! ## Code entries -/

theorem getLsbD_seven (b : Byte) : b.getLsbD 7 = decide (128 ≤ b.toNat) :=
  (BitVec.msb_eq_getLsbD_last b).symm.trans (BitVec.msb_eq_decide b)

/-- R100: an entry carried with END set is the cleared value. -/
theorem codeEntryOf_end {bs : List Byte} (endSet : 128 ≤ numAt bs 0) : codeEntryOf bs = some CodeEntry.cleared := by
  have head : (bs.getD 0 0).getLsbD 7 = true := (getLsbD_seven _).trans (decide_eq_true endSet)
  simp only [codeEntryOf, head, if_true]

theorem actionOfCode_zero : actionOfCode 0 = none := rfl

theorem actionOfCode_some {v : Nat} (two : v < 4) (some_ : v ≠ 0) :
    actionOfCode v = some (if v = 1 then .pass else if v = 2 then .capture else .substitute) := by
  unfold actionOfCode
  split
  · rfl
  · split
    · rfl
    · rw [if_pos (by omega)]

/-- R100: with END clear, a wrong action or a wrong length is no value. -/
theorem codeEntryOf_invalid {bs : List Byte} (endClear : numAt bs 0 < 128)
    (wrong : numAt bs 0 % 4 = 0 ∨ numAt bs 1 / 16 = 0 ∨ 6 < numAt bs 1 / 16 ∨ 8 < numAt bs 1 % 16) : codeEntryOf bs = none := by
  have head : (bs.getD 0 0).getLsbD 7 = false := (getLsbD_seven _).trans (decide_eq_false (Nat.not_le.mpr endClear))
  simp only [codeEntryOf, head]
  rw [if_neg (by simp)]
  rcases wrong with noAction | badLength
  · have none_ : actionOfCode ((bs.getD 0 0).toNat % 4) = none := (congrArg actionOfCode noAction).trans actionOfCode_zero
    simp only [none_, ite_self]
  · rw [if_pos badLength]

/-- R100: with END clear, the fields of a value, what stands beyond its lists passed over. -/
theorem codeEntryOf_fields {bs : List Byte} (whole : bs.length = 9) (endClear : numAt bs 0 < 128) (acts : numAt bs 0 % 4 ≠ 0)
    (some_ : numAt bs 1 / 16 ≠ 0) (short : numAt bs 1 / 16 ≤ 6) (few : numAt bs 1 % 16 ≤ 8) : codeEntryOf bs = some
      { isEnd := false
        code := (symbolsOf ((bs.drop 2).take 3)).take (numAt bs 1 / 16)
        action := some (if numAt bs 0 % 4 = 1 then .pass else if numAt bs 0 % 4 = 2 then .capture else .substitute)
        notify := (bs.getD 0 0).getLsbD 6
        replacement := (symbolsOf (bs.drop 5)).take (numAt bs 1 % 16) } := by
  have head : (bs.getD 0 0).getLsbD 7 = false := (getLsbD_seven _).trans (decide_eq_false (Nat.not_le.mpr endClear))
  have action := actionOfCode_some (Nat.mod_lt (numAt bs 0) (by decide)) acts
  have tail : (bs.drop 5).take 4 = bs.drop 5 := List.take_of_length_le (by rw [List.length_drop]; omega)
  rw [numAt] at action
  simp only [codeEntryOf, head, action, tail]
  rw [if_neg (by simp), if_neg (by omega)]
  rfl

/-! ## Tone entries -/

/-- R132, R133: each field is clamped to the nearer bound of its range. -/
theorem toneEntry_clamped_eq (e : ToneEntry) : e.clamped =
    ⟨max 200 (min 3000 e.fLow), max 200 (min 3000 e.fHigh), min 4095 e.aLow, min 4095 e.aHigh⟩ := by
  simp [ToneEntry.clamped, clamp_eq_max_min]

/-- Tone entries whose fields fit two octets read back (12.4). -/
theorem toneEntries_octets {es : List ToneEntry}
    (fits : ∀ e ∈ es, e.fLow < 65536 ∧ e.fHigh < 65536 ∧ e.aLow < 65536 ∧ e.aHigh < 65536) :
    toneEntries (es.map ToneEntry.octets) = es := by
  have read : ∀ e ∈ es, toneEntryOf e.octets = e := fun e m =>
    have ⟨fLow, fHigh, aLow, aHigh⟩ := fits e m
    toneEntryOf_octets fLow fHigh aLow aHigh
  rw [toneEntries, List.map_map]
  exact (List.map_congr_left read).trans (List.map_id es)

theorem carriedEntries_tones {es : List ToneEntry} (some_ : 1 ≤ es.length) (few : es.length ≤ 7) :
    carriedEntries 8 7 (es.flatMap ToneEntry.octets) = some (es.map ToneEntry.octets) := by
  rw [List.flatMap_def]
  exact carriedEntries_flatten (by decide) (by simp [length_tone_octets]) (by simpa using some_) (by simpa using few)

theorem length_tones {es : List ToneEntry} (few : es.length ≤ 7) : (es.flatMap ToneEntry.octets).length ≤ 62 := by
  rw [List.flatMap_def]
  exact length_flatten_le (size := 8) (most := 7) (by simp [length_tone_octets]) (by simpa using few) (by decide)

/-! ## TABLE-WRITE on a translation page -/

section
variable {s : State} (ready : s.ready) (tag : Byte) {params : List Byte} {raw : List (List Byte)} (fit : params.length ≤ 62)
include ready fit

section
variable {k : Fin 8} (table : s.cursor.table = .trans k) (carried : carriedEntries 1 20 params = some raw)
include table carried

theorem exec_tableWrite_trans_refused {c : RefusalCode} (refused : (s.xlat.get k).writeRefusal s.cursor.page = some c) :
    exec (.tableWrite tag params) s = .next (s.refusedBy tag 0x0A c) := by
  rw [exec_tableWrite_ready ready tag fit]
  refine congrArg _ (replied_of_refuseWith ?_ tag 0x0A)
  simp only [reqTableWrite, table, writeTrans, carried, refused]

variable (pass : (s.xlat.get k).writeRefusal s.cursor.page = none)
include pass

theorem exec_tableWrite_trans_value (none_ : transEntries raw = none) :
    exec (.tableWrite tag params) s = .next (s.refusedBy tag 0x0A .value) := by
  rw [exec_tableWrite_ready ready tag fit]
  refine congrArg _ (replied_of_refuseWith ?_ tag 0x0A)
  simp only [reqTableWrite, table, writeTrans, carried, pass, none_]

theorem exec_tableWrite_trans_range {es : List TransValue} (read : transEntries raw = some es)
    (past : 20 < s.cursor.offset + es.length) : exec (.tableWrite tag params) s = .next (s.refusedBy tag 0x0A .range) := by
  rw [exec_tableWrite_ready ready tag fit]
  refine congrArg _ (replied_of_refuseWith ?_ tag 0x0A)
  simp only [reqTableWrite, table, writeTrans, carried, pass, read, if_pos past]

theorem exec_tableWrite_trans {es : List TransValue} (read : transEntries raw = some es) (inside : s.cursor.offset + es.length ≤ 20)
    {o : Nat} (moves : o = if s.cursor.autoIncrement then s.cursor.offset + es.length else s.cursor.offset) :
    exec (.tableWrite tag params) s = .next
      ({ s with
        xlat := vmod s.xlat k fun p => p.setEntries s.cursor.page (vwrite (p.entries s.cursor.page) s.cursor.offset es)
        cursor := { s.cursor with offset := o } }.acked tag 0x0A (.cursorOffset o)) := by
  rw [exec_tableWrite_ready ready tag fit]
  refine congrArg _ (replied_of_ackWith ?_ (by rfl) tag 0x0A)
  simp only [reqTableWrite, table, writeTrans, carried, pass, read, if_neg (Nat.not_lt.mpr inside), moved_eq, moves]

end

/-! ## TABLE-WRITE on a code page -/

section
variable {k : Fin 4} (table : s.cursor.table = .code k) (carried : carriedEntries 9 6 params = some raw)
include table carried

theorem exec_tableWrite_code_refused {c : RefusalCode} (refused : (s.code.get k).writeRefusal s.cursor.page = some c) :
    exec (.tableWrite tag params) s = .next (s.refusedBy tag 0x0A c) := by
  rw [exec_tableWrite_ready ready tag fit]
  refine congrArg _ (replied_of_refuseWith ?_ tag 0x0A)
  simp only [reqTableWrite, table, writeCode, carried, refused]

variable (pass : (s.code.get k).writeRefusal s.cursor.page = none)
include pass

theorem exec_tableWrite_code_value (none_ : codeEntries raw = none) :
    exec (.tableWrite tag params) s = .next (s.refusedBy tag 0x0A .value) := by
  rw [exec_tableWrite_ready ready tag fit]
  refine congrArg _ (replied_of_refuseWith ?_ tag 0x0A)
  simp only [reqTableWrite, table, writeCode, carried, pass, none_]

theorem exec_tableWrite_code_range {es : List CodeEntry} (read : codeEntries raw = some es)
    (past : 16 < s.cursor.offset + es.length) : exec (.tableWrite tag params) s = .next (s.refusedBy tag 0x0A .range) := by
  rw [exec_tableWrite_ready ready tag fit]
  refine congrArg _ (replied_of_refuseWith ?_ tag 0x0A)
  simp only [reqTableWrite, table, writeCode, carried, pass, read, if_pos past]

theorem exec_tableWrite_code {es : List CodeEntry} (read : codeEntries raw = some es) (inside : s.cursor.offset + es.length ≤ 16)
    {o : Nat} (moves : o = if s.cursor.autoIncrement then s.cursor.offset + es.length else s.cursor.offset) :
    exec (.tableWrite tag params) s = .next
      ({ s with
        code := vmod s.code k fun p => p.setEntries s.cursor.page (vwrite (p.entries s.cursor.page) s.cursor.offset es)
        cursor := { s.cursor with offset := o } }.acked tag 0x0A (.cursorOffset o)) := by
  rw [exec_tableWrite_ready ready tag fit]
  refine congrArg _ (replied_of_ackWith ?_ (by rfl) tag 0x0A)
  simp only [reqTableWrite, table, writeCode, carried, pass, read, if_neg (Nat.not_lt.mpr inside), moved_eq, moves]

end
end

/-! ## TABLE-WRITE on the tone table -/

section
variable {s : State} (ready : s.ready) (tag : Byte) (table : s.cursor.table = .tone) {es : List ToneEntry}
  (some_ : 1 ≤ es.length) (few : es.length ≤ 7)
  (fits : ∀ e ∈ es, e.fLow < 65536 ∧ e.fHigh < 65536 ∧ e.aLow < 65536 ∧ e.aHigh < 65536)
include ready table some_ few fits

theorem exec_tableWrite_tone_range (past : 16 < s.cursor.offset + es.length) :
    exec (.tableWrite tag (es.flatMap ToneEntry.octets)) s = .next (s.refusedBy tag 0x0A .range) := by
  rw [exec_tableWrite_ready ready tag (length_tones few)]
  refine congrArg _ (replied_of_refuseWith ?_ tag 0x0A)
  simp only [reqTableWrite, table, writeTones, carriedEntries_tones some_ few, toneEntries_octets fits, if_pos past]

theorem exec_tableWrite_tone (inside : s.cursor.offset + es.length ≤ 16) {o : Nat}
    (moves : o = if s.cursor.autoIncrement then s.cursor.offset + es.length else s.cursor.offset) :
    exec (.tableWrite tag (es.flatMap ToneEntry.octets)) s = .next
      ({ s with
        tones := vwrite s.tones s.cursor.offset (es.map ToneEntry.clamped)
        cursor := { s.cursor with offset := o } }.replied tag 0x0A
          (.ack (es.map ToneEntry.clamped ≠ es) false (.cursorOffset o))) := by
  rw [exec_tableWrite_ready ready tag (length_tones few)]
  refine congrArg _ (replied_of_ackClamped ?_ (by rfl) tag 0x0A)
  simp only [reqTableWrite, table, writeTones, carriedEntries_tones some_ few, toneEntries_octets fits,
    if_neg (Nat.not_lt.mpr inside), moved_eq, moves]

end

/-! ## The statement, part by part -/

/-- The parameters of a code write are cut into entries of nine octets. -/
theorem carriedEntries_codes {params : List Byte} (some_ : 9 ≤ params.length) (few : params.length ≤ 54)
    (whole : params.length % 9 = 0) : carriedEntries 9 6 params = some (pieces 9 (params.length / 9) params) :=
  carriedEntries_fits whole (by omega) (by omega)

/-- However they are written as entries of nine octets, those are the entries carried. -/
theorem pieces_of_flatten {params : List Byte} {bss : List (List Byte)} (same : params = bss.flatten)
    (each : ∀ bs ∈ bss, bs.length = 9) : pieces 9 (params.length / 9) params = bss := by
  subst same
  rw [length_flatten_pieces each, Nat.mul_div_cancel_left _ (by decide), pieces_flatten each]

/-- Settles O55. -/
theorem tableWritesStoreTheirEntries : Obligations.TableWritesStoreTheirEntries := by
  refine ⟨fun s tag k ps ready table some_ few => ?_, fun s tag k ps ready table some_ few whole => ?_,
    fun bs whole => ⟨codeEntryOf_end, fun endClear => ⟨codeEntryOf_invalid endClear, codeEntryOf_fields whole endClear⟩⟩,
    fun s tag es o ready table some_ few fits moves => ⟨exec_tableWrite_tone_range ready tag table some_ few fits, fun inside => ?_⟩,
    toneEntry_clamped_eq, vget_vwrite⟩
  · have fit : ps.length ≤ 62 := few.trans (by decide)
    have carried : carriedEntries 1 20 ps = some (ps.map fun b => [b]) := carriedEntries_octets some_ few
    have refused {c : RefusalCode} := exec_tableWrite_trans_refused (c := c) ready tag fit table carried
    refine ⟨fun locked => refused (writeRefusal_locked locked _), fun unlocked =>
      ⟨fun active => refused (writeRefusal_active unlocked active), fun inactive =>
        ⟨fun bound => refused (writeRefusal_bound unlocked inactive bound), fun free => ?_⟩⟩⟩
    have pass := writeRefusal_eq_none.mpr ⟨unlocked, inactive, free⟩
    refine ⟨fun noValue => exec_tableWrite_trans_value ready tag fit table carried pass (transEntries_noValue noValue), ?_⟩
    rintro es o rfl moves
    have read := transEntries_codes es
    exact ⟨exec_tableWrite_trans_range ready tag fit table carried pass read,
      fun inside => exec_tableWrite_trans ready tag fit table carried pass read inside moves⟩
  · have fit : ps.length ≤ 62 := few.trans (by decide)
    have carried := carriedEntries_codes some_ few whole
    have refused {c : RefusalCode} := exec_tableWrite_code_refused (c := c) ready tag fit table carried
    refine ⟨fun locked => refused (writeRefusal_locked locked _), fun unlocked =>
      ⟨fun active => refused (writeRefusal_active unlocked active), fun inactive =>
        ⟨fun bound => refused (writeRefusal_bound unlocked inactive bound), fun free bss same each => ?_⟩⟩⟩
    have pass := writeRefusal_eq_none.mpr ⟨unlocked, inactive, free⟩
    rw [pieces_of_flatten same each] at carried
    refine ⟨fun noValue => exec_tableWrite_code_value ready tag fit table carried pass (codeEntries_noValue noValue),
      fun es o values moves => ?_⟩
    have read := codeEntries_read values
    exact ⟨exec_tableWrite_code_range ready tag fit table carried pass read,
      fun inside => exec_tableWrite_code ready tag fit table carried pass read inside moves⟩
  · rw [exec_tableWrite_tone ready tag table some_ few fits inside moves, decide_eq_decide.mpr map_clamped_ne]

end Sys2Proof.Machine
end

section
/-! PROOF. O35: the screen of a call. An arrival updates the fallback, and what the screen then decides is read off the live entries: the
three verdicts at a given updated fallback are said once, for every arrival. -/

namespace Sys2Proof.Machine

/-! ## Classes (R107) -/

theorem classify_eq_complete_iff {held : List Symbol} {e : CodeEntry} : classify held e = .complete ↔ held = e.code := by
  unfold classify
  split
  · simp [*]
  · split <;> simp [*]

theorem classify_eq_pending_iff {held : List Symbol} {e : CodeEntry} :
    classify held e = .pending ↔ held.length < e.code.length ∧ held = e.code.take held.length := by
  have proper : classify held e = .pending ↔ held ≠ e.code ∧ held <+: e.code := by
    unfold classify
    split
    · simp [*]
    · split <;> simp_all
  rw [proper, ← List.prefix_iff_eq_take, and_congr_left_iff]
  exact fun pre => ⟨fun differ => lt_of_le_of_ne pre.length_le fun long => differ (pre.eq_of_length long),
    fun shorter same => absurd (congrArg List.length same) shorter.ne⟩

theorem classify_eq_dead_iff {held : List Symbol} {e : CodeEntry} :
    classify held e = .dead ↔ held ≠ e.code ∧ ¬ held <+: e.code := by
  unfold classify
  split
  · simp [*]
  · split <;> simp_all

/-! ## The decision (R108) -/

theorem decideScreen_found {live : List CodeEntry} {held : List Symbol} {f : Nat}
    (none_ : ∀ j e, live[j]? = some e → j < f → classify held e ≠ .pending) : decideScreen live held (some f) = .found f := by
  refine if_neg fun open_ => ?_
  obtain ⟨e, below, pending⟩ := List.any_eq_true.mp open_
  obtain ⟨j, inside, rfl⟩ := List.mem_take_iff_getElem.mp below
  exact none_ j _ (List.getElem?_eq_getElem _) (lt_min_iff.mp inside).1 (of_decide_eq_true pending)

theorem decideScreen_waitBelow {live : List CodeEntry} {held : List Symbol} {f j : Nat} {e : CodeEntry} (at_ : live[j]? = some e)
    (lower : j < f) (pending : classify held e = .pending) : decideScreen live held (some f) = .wait :=
  if_pos (List.any_eq_true.mpr ⟨e, List.mem_of_getElem? (i := j) (by rw [List.getElem?_take_of_lt lower, at_]), decide_eq_true pending⟩)

theorem decideScreen_noMatch {live : List CodeEntry} {held : List Symbol} (none_ : ∀ e ∈ live, classify held e ≠ .pending) :
    decideScreen live held none = .noMatch :=
  if_neg (by simpa using none_)

theorem decideScreen_wait {live : List CodeEntry} {held : List Symbol} (some_ : ∃ e ∈ live, classify held e = .pending) :
    decideScreen live held none = .wait :=
  if_pos (by simpa using some_)

/-! ## The fallback after an arrival (R108) -/

/-- R108: the fallback that an arrival leaves, from the live entries, the held list with the symbol, and the fallback held. -/
def updatedFallback (live : List CodeEntry) (held : List Symbol) (old : Option Nat) : Option Nat :=
  newFallback old (live.findIdx? fun e => classify held e = .complete)

theorem updatedFallback_none {live : List CodeEntry} {held : List Symbol} (none_ : ∀ e ∈ live, classify held e ≠ .complete) :
    updatedFallback live held none = none := by
  have absent : live.findIdx? (fun e => classify held e = .complete) = none := by simpa using none_
  rw [updatedFallback, absent]
  rfl

/-- The fallback is `g` after an arrival at which no lower entry is complete, if it was `g` before, or if entry `g` is complete and lower
than the fallback held. -/
theorem updatedFallback_some {live : List CodeEntry} {held : List Symbol} {old : Option Nat} {g : Nat} {e : CodeEntry}
    (at_ : live[g]? = some e) (none_ : ∀ j d, live[j]? = some d → j < g → classify held d ≠ .complete)
    (takes : old = some g ∨ e.code = held ∧ ∀ f, old = some f → g < f) : updatedFallback live held old = some g := by
  have lowest : ∀ i, live.findIdx? (fun e => classify held e = .complete) = some i → g ≤ i := by
    intro i first
    obtain ⟨inside, complete, -⟩ := List.findIdx?_eq_some_iff_getElem.mp first
    exact not_lt.mp fun lower => none_ i _ (List.getElem?_eq_getElem inside) lower (of_decide_eq_true complete)
  rcases takes with rfl | ⟨code, lower⟩
  · cases first : live.findIdx? (fun e => classify held e = .complete) with
    | none => simp [updatedFallback, first, newFallback]
    | some i => simp [updatedFallback, first, newFallback, lowest i first]
  · obtain ⟨inside, is⟩ := List.getElem?_eq_some_iff.mp at_
    have first : live.findIdx? (fun e => classify held e = .complete) = some g := by
      refine List.findIdx?_eq_some_iff_getElem.mpr ⟨inside, ?_, fun j before => ?_⟩
      · rw [is]
        exact decide_eq_true (classify_eq_complete_iff.mpr code.symm)
      · simpa using none_ j _ (List.getElem?_eq_getElem (before.trans inside)) before
    cases old with
    | none => simp [updatedFallback, first, newFallback]
    | some f => simp [updatedFallback, first, newFallback, (lower f rfl).le]

/-! ## A symbol while MATCHING (R107, R108) -/

theorem modCall_congr {s : State} {n : LineId} {c : Call} {f g : Call → Call} (call : s.callOf n = some c) (same : f c = g c) :
    s.modCall n f = s.modCall n g := by
  obtain ⟨st, decoder⟩ := call_eq_some call
  exact modLine_congr s n (by simp [decoder, Decoder.mapCall, same])

theorem modCall_modCall (s : State) (n : LineId) (f g : Call → Call) : (s.modCall n f).modCall n g = s.modCall n fun c => g (f c) := by
  rw [modCall_eq, modCall_eq, modLine_modLine]
  exact modLine_congr s n (by cases (s.line n).decoder <;> rfl)

section

variable {n : LineId} {s : State} {c : Call} {sym : Symbol}

/-- The screen writes its call record back as a change of the match context alone. -/
theorem modCall_screened (call : s.callOf n = some c) (held : List Symbol) (fallback : Option Nat) :
    (s.modCall n fun _ => { c with held := held, fallback := fallback }) =
      s.modCall n fun k => { k with held := held, fallback := fallback } := modCall_congr call rfl

/-- R107: while MATCHING a symbol goes to the screen. -/
theorem handSymbol_matching (call : s.callOf n = some c) (matching : c.phase = .matching) :
    handSymbol n sym s = screenSymbol n sym c s := by
  simp only [handSymbol, call, matching]

/-- R108: a screen that waits takes the symbol into the held list and updates the fallback. -/
theorem handSymbol_wait (call : s.callOf n = some c) (matching : c.phase = .matching) {fallback : Option Nat}
    (updated : updatedFallback (s.liveOf c) (c.held ++ [sym]) c.fallback = fallback)
    (waits : decideScreen (s.liveOf c) (c.held ++ [sym]) fallback = .wait) :
    handSymbol n sym s = s.modCall n fun k => { k with held := c.held ++ [sym], fallback := fallback } := by
  rw [updatedFallback] at updated
  simp only [handSymbol_matching call matching, screenSymbol, updated, waits, modCall_screened call]

/-- R110: a screen that resolves with no match queues the held list. -/
theorem handSymbol_noMatch (call : s.callOf n = some c) (matching : c.phase = .matching)
    (updated : updatedFallback (s.liveOf c) (c.held ++ [sym]) c.fallback = none)
    (none_ : ∀ e ∈ s.liveOf c, classify (c.held ++ [sym]) e ≠ .pending) :
    handSymbol n sym s = bring n ((c.held ++ [sym]).map .digit) (s.modCall n fun k =>
      { k with held := [], fallback := none, phase := .free }) := by
  rw [updatedFallback] at updated
  simp only [handSymbol_matching call matching, screenSymbol, updated, decideScreen_noMatch none_, modCall_screened call, resolve_none,
    modCall_modCall]

/-- R110, R111: a screen that resolves on its fallback has the match's effects and queues the action's output. -/
theorem handSymbol_found (call : s.callOf n = some c) (matching : c.phase = .matching) {g : Nat} {e : CodeEntry}
    (updated : updatedFallback (s.liveOf c) (c.held ++ [sym]) c.fallback = some g) (at_ : (s.liveOf c)[g]? = some e)
    (none_ : ∀ j d, (s.liveOf c)[j]? = some d → j < g → classify (c.held ++ [sym]) d ≠ .pending) :
    handSymbol n sym s = bring n ((resolvedSymbols (c.held ++ [sym]) (some e)).map .digit)
      ((matchEffects n g e (s.modCall n fun k => { k with held := c.held ++ [sym], fallback := some g })).modCall n fun k =>
        { k with held := [], fallback := none, phase := .free }) := by
  rw [updatedFallback] at updated
  simp only [handSymbol_matching call matching, screenSymbol, updated, decideScreen_found none_, modCall_screened call]
  exact resolve_some at_

end

/-! ## A flash while MATCHING (R109) -/

theorem handFlash_matching {n : LineId} {s : State} {c : Call} (call : s.callOf n = some c) (matching : c.phase = .matching) :
    handFlash n s = resolve n c c.fallback [.flash] s := by
  simp only [handFlash, call, matching]

/-! ## What a resolution queues, and what a match leaves (R110, R111, R112, R115) -/

theorem resolvedSymbols_pass {held : List Symbol} {e : CodeEntry} (pass : e.action = some .pass) :
    resolvedSymbols held (some e) = held := by
  simp [resolvedSymbols, pass]

/-- The line after a match: CAPTURE writes the record and latches CAPTURE, NOTIFY latches CODE-MATCH. -/
theorem line_matchEffects (n : LineId) (offset : Nat) (e : CodeEntry) (s : State) : (matchEffects n offset e s).line n =
    { s.line n with
      capture := if e.action = some .capture then some (writeCapture (s.line n).capture offset e.code) else (s.line n).capture
      events := (s.line n).events ||| (if e.action = some .capture then 0x001 else 0) ||| (if e.notify then 0x002 else 0) } := by
  unfold matchEffects
  by_cases captures : e.action = some .capture <;> by_cases notifies : e.notify = true <;>
    simp [captures, notifies, line_latch, LineEvent.bit]

/-! ## The statement -/

/-- Settles O35. -/
theorem screensDecideAndResolve : Obligations.ScreensDecideAndResolve := by
  refine ⟨fun held e => ⟨classify_eq_complete_iff, classify_eq_pending_iff, classify_eq_dead_iff⟩,
    fun live held fallback => ⟨?found, ?noMatch, ?waitBelow, ?wait⟩,
    fun held e => ⟨rfl, resolvedSymbols_pass, fun capture => by simp only [resolvedSymbols, capture],
      fun substitute => by simp only [resolvedSymbols, substitute]⟩,
    fun n s c sym call matching => ⟨fun none_ noComplete => ?noFallback, fun g e at_ noComplete takes => ?fallback,
      fun none_ => ?flashNone, fun f e some_ at_ => ?flashSome⟩,
    fun n offset e s => ?effects⟩
  case found =>
    rintro f rfl none_
    exact decideScreen_found none_
  case noMatch =>
    rintro rfl none_
    exact decideScreen_noMatch none_
  case waitBelow =>
    rintro f j e rfl at_ lower pending
    exact decideScreen_waitBelow at_ lower pending
  case wait =>
    rintro rfl some_
    exact decideScreen_wait some_
  case noFallback =>
    have updated : updatedFallback (s.liveOf c) (c.held ++ [sym]) c.fallback = none := by
      rw [none_, updatedFallback_none noComplete]
    refine ⟨fun some_ => ?_, fun dead => handSymbol_noMatch call matching updated fun e live => by simp [dead e live]⟩
    rw [handSymbol_wait call matching updated (decideScreen_wait some_)]
    exact modCall_congr call (by rw [← none_])
  case fallback =>
    have updated := updatedFallback_some at_ noComplete takes
    refine ⟨?_, fun dead => handSymbol_found call matching updated at_ fun j d live lower => by simp [dead j d live lower]⟩
    rintro ⟨j, d, live, lower, pending⟩
    exact handSymbol_wait call matching updated (decideScreen_waitBelow live lower pending)
  case flashNone =>
    rw [handFlash_matching call matching, none_]
    rfl
  case flashSome =>
    rw [handFlash_matching call matching, some_]
    simp only [resolve, Option.bind_some, at_]
  case effects =>
    rw [line_matchEffects]
    exact ⟨by cases (s.line n).capture <;> rfl, rfl⟩

end Sys2Proof.Machine
end

section
/-! PROOF. O7: the emission of a line without a call is idle. A mode is entered only where no call is open, so the law of the modes is
kept with it. -/

namespace Sys2Proof.Machine

/-- R119: the law of the emissions, of one line. -/
def Line.emissionLawful (l : Line) : Prop := l.decoder.call = none → l.emission = Emission.idle

theorem emissionsLawful_iff (s : State) : s.emissionsLawful ↔ ∀ n, (s.line n).emissionLawful := Iff.rfl

/-- A line with an open call may have any emission. -/
theorem Line.emissionLawful.inCall {l : Line} {st : CallState} {c : Call} (call : l.decoder = .inCall st c) : l.emissionLawful :=
  fun none_ => by simp [call, Decoder.call] at none_

/-- R119: only a line with a call leaves an idle emission, and the mode of a line changes only where no call is open. -/
theorem emissionLawful_lineStep {l l' : Line} (h : LineStep l l') (mode : l.modeLawful) (lawful : l.emissionLawful) :
    l'.emissionLawful := by
  cases h with
  | keep decoder _ _ emission _ _ =>
    intro none_
    rw [decoder] at none_
    exact emission.1.elim (fun some_ => by simp [none_] at some_) fun stays => stays (lawful none_)
  | noCall _ before _ _ => exact fun _ => lawful before
  | call _ _ _ => exact .inCall rfl
  | enter _ before _ =>
    exact fun _ => lawful (before.elim id fun other => by rw [mode.1 other]; rfl)
  | park _ => exact lawful
  | cancel => exact lawful
  | defer _ _ _ _ => exact lawful

theorem emissionsLawful_modLine {s : State} {n : LineId} {f : Line → Line} (p : s.emissionsLawful)
    (own : (f (s.line n)).emissionLawful) : (s.modLine n f).emissionsLawful := by
  rw [emissionsLawful_iff] at p ⊢
  intro m
  rw [line_modLine]
  split
  · exact own
  · exact p m

/-- R66, R130: a call that is cleared leaves its emission idle, and without a call it was idle before. -/
theorem emissionsLawful_clearCall {s : State} (n : LineId) (d : Decoder) (p : s.emissionsLawful) :
    (clearCall n d s).emissionsLawful := by
  unfold clearCall
  split
  · exact emissionsLawful_modLine (s := State.unbindPages _ _ _) p fun _ => rfl
  all_goals
    rename_i before
    exact emissionsLawful_modLine p fun _ => p n (by rw [callOf_eq, before]; rfl)

/-- The law of the modes with the law of the emissions. -/
def State.idleLawful (s : State) : Prop := s.modesLawful ∧ s.emissionsLawful

theorem lineClosed_idleLawful (n : LineId) : LineClosed n State.idleLawful where
  attention _ p := p
  line f p step := ⟨(lineClosed_modesLawful n).line f p.1 step,
    emissionsLawful_modLine p.2 (emissionLawful_lineStep step (p.1 n) (p.2 n))⟩
  filter f p step := ⟨(lineClosed_modesLawful n).filter f p.1 step,
    emissionsLawful_modLine p.2 (emissionLawful_lineStep step (p.1 n) (p.2 n) :)⟩
  opening p seizing := ⟨(lineClosed_modesLawful n).opening p.1 seizing,
    emissionsLawful_modLine (s := State.bindPages _ _ _) p.2 (.inCall rfl)⟩
  clear d p after cause := ⟨(lineClosed_modesLawful n).clear d p.1 after cause, emissionsLawful_clearCall n d p.2⟩

theorem closed_idleLawful : Closed State.idleLawful where
  on := lineClosed_idleLawful
  small p e := by rw [e]; exact p
  config _ p _ := p
  profile _ _ _ p _ := p
  trans _ _ p _ _ := p
  code _ _ p _ _ := p
  tones _ p := p
  management p e := by rw [e]; exact p
  replies _ p _ := p
  ports p e := by rw [e]; exact p
  paced p := p
  carried p := p
  voice n _ p := ⟨modesLawful_modLine p.1 (p.1 n), emissionsLawful_modLine p.2 (p.2 n)⟩
  lu _ p _ := p
  luLock p := p
  luLoss p := p
  luFrame _ p _ := p
  sd _ p _ := p
  sdLock p := p
  sdLoss p := p
  sdFrame _ p _ := p
  reset _ := ⟨reset_modesLawful, reset_emissionsLawful⟩

/-- Settles O7: every update keeps the two laws together. -/
theorem emissionsStayLawful : Obligations.EmissionsStayLawful := fun _ _ modes emissions next =>
  (closed_idleLawful.step (fun _ _ p => p) ⟨modes, emissions⟩ next).2

end Sys2Proof.Machine
end

section
/-! PROOF. O36: the items of one producing event join the queue, and one event is raised where the queue has no room for all. -/

namespace Sys2Proof.Machine

section

variable {n : LineId} {items : List Item} {s : State}

/-- R118: items that the queue has room for join its tail. -/
theorem bring_fits (room : (s.line n).emission.queue.length + items.length ≤ 16) :
    bring n items s = s.modLine n fun l => { l with emission := { l.emission with queue := l.emission.queue ++ items } } := by
  have short : ((s.line n).emission.queue ++ items).length ≤ 16 := by rwa [List.length_append]
  refine (if_neg (Nat.not_lt.mpr short)).trans (modLine_congr s n ?_)
  rw [List.take_of_length_le short]

/-- R118: of the items that the queue has no room for, those beyond 16 are lost, and QUEUE-OVERFLOW is raised. -/
theorem bring_overflows (full : 16 < (s.line n).emission.queue.length + items.length) :
    bring n items s = latch n .queueOverflow (s.modLine n fun l =>
      { l with emission := { l.emission with queue := (l.emission.queue ++ items).take 16 } }) := by
  have long : 16 < ((s.line n).emission.queue ++ items).length := by rwa [List.length_append]
  exact (if_pos long).trans (congrArg _ (modLine_congr s n rfl))

end

section

variable {n : LineId} {s : State} {c : Call}

/-- R113: in FREE a symbol is queued as it comes. -/
theorem handSymbol_free (call : s.callOf n = some c) (free : c.phase = .free) (sym : Symbol) :
    handSymbol n sym s = bring n [.digit sym] s := by
  simp only [handSymbol, call, free]

/-- R113: in FREE a flash is queued as it comes. -/
theorem handFlash_free (call : s.callOf n = some c) (free : c.phase = .free) : handFlash n s = bring n [.flash] s := by
  simp only [handFlash, call, free]

end

/-- Settles O36. -/
theorem itemsJoinTheQueue : Obligations.ItemsJoinTheQueue :=
  ⟨fun _ _ _ => ⟨bring_fits, bring_overflows⟩, fun _ _ _ call free => ⟨handSymbol_free call free, handFlash_free call free⟩⟩

end Sys2Proof.Machine
end

section
/-! PROOF. O37, O39: the Tone Emitter. What it takes, the end of each of its states, and its output frame, which is a frame less of the
state or the state's end, and then a taking where the emitter is in QUIET. -/

namespace Sys2Proof.Machine

section

variable {n : LineId} {s : State}

/-! ## Taking an item (R124) -/

theorem canTake_iff {e : Emission} : e.canTake = true ↔
    e.state = .quiet ∧ e.firstWait = none ∧ e.hold = false ∧ (e.slotWaiting = true ∨ e.queue ≠ []) := by
  simp [Emission.canTake, and_assoc]

theorem slotWaiting_iff {e : Emission} : e.slotWaiting = true ↔ ∃ sym notify, e.slot = some ⟨sym, notify, .waiting⟩ := by
  unfold Emission.slotWaiting
  rcases e.slot with _ | ⟨sym, notify, condition⟩
  · simp
  · cases condition <;> simp

theorem exec_emitterTakeItem (n : LineId) (s : State) : exec (.emitterTakeItem n) s = .next (takeIfFree n s) := rfl

theorem takeIfFree_canTake (can : (s.line n).emission.canTake = true) : takeIfFree n s = takeItem n s := if_pos can

theorem takeIfFree_cannotTake (cannot : ¬(s.line n).emission.canTake = true) : takeIfFree n s = s := if_neg cannot

theorem takeItem_slot {sym : Symbol} {notify : Bool} (waiting : (s.line n).emission.slot = some ⟨sym, notify, .waiting⟩) :
    takeItem n s = s.modLine n fun l =>
      { l with emission := { l.emission with slot := some ⟨sym, notify, .emitting⟩, state := .tone (s.burstOf n sym) } } := by
  simp only [takeItem, waiting, modEmission_eq]

theorem takeItem_digit {sym : Symbol} {rest : List Item} (empty : (s.line n).emission.slot = none)
    (head : (s.line n).emission.queue = .digit sym :: rest) : takeItem n s = s.modLine n fun l =>
      { l with emission := { l.emission with queue := rest, state := .tone (s.burstOf n sym) } } := by
  simp only [takeItem, takeFromQueue, empty, head, modEmission_eq]

theorem takeItem_flash {rest : List Item} (empty : (s.line n).emission.slot = none)
    (head : (s.line n).emission.queue = .flash :: rest) : takeItem n s = s.modLine n fun l =>
      { l with emission := { l.emission with
        queue := rest
        state := .flashOut ((s.profileOf n).flashOpen * 8 - 1) ((s.profileOf n).flashGuard * 8) } } := by
  simp only [takeItem, takeFromQueue, empty, head, modEmission_eq]

/-! ## The ends of the states (R122, R125, R126, R128) -/

theorem exec_burstEnd_due {b : Burst} (tone : (s.line n).emission.state = .tone b) (last : b.remaining = 0) :
    exec (.burstEnd n) s = .next (endBurst n b s) := by
  change execBurstEnd n s = _
  simp only [execBurstEnd, tone, last, if_true]

theorem exec_flashOpenEnd_due {g : Nat} (last : (s.line n).emission.state = .flashOut 0 g) :
    exec (.flashOpenEnd n) s = .next (endFlash n g s) := by
  change execFlashOpenEnd n s = _
  simp only [execFlashOpenEnd, last]

theorem exec_guardEnd_due (last : (s.line n).emission.state = .guard 0) : exec (.guardEnd n) s = .next (endGuard n s) := by
  change execGuardEnd n s = _
  simp only [execGuardEnd, last]

theorem exec_gapEnd_due (last : (s.line n).emission.state = .gap 0) : exec (.gapEnd n) s = .next (endGap n s) := by
  change execGapEnd n s = _
  simp only [execGapEnd, last]

/-- R125: the gap of a queued symbol leaves the slot. -/
theorem endGap_queued (queued : ∀ sym notify, (s.line n).emission.slot ≠ some ⟨sym, notify, .emitting⟩) :
    endGap n s = s.modLine n fun l => { l with emission := { l.emission with state := .quiet } } := by
  unfold endGap
  dsimp only
  split
  · rename_i sym notify emitting
    exact absurd emitting (queued sym notify)
  · exact setEmitter_eq s n .quiet

/-- R122: the gap of an inserted symbol empties the slot, and latches INSERT-DONE where the record asks for it. -/
theorem endGap_inserted {sym : Symbol} {notify : Bool} (emitting : (s.line n).emission.slot = some ⟨sym, notify, .emitting⟩)
    {t : State} (emptied : t = s.modLine n fun l => { l with emission := { l.emission with state := .quiet, slot := none } }) :
    endGap n s = if notify then latch n .insertDone t else t := by
  subst emptied
  simp only [endGap, emitting, setEmitter_eq, modEmission_eq, modLine_modLine]

/-- R128: one output frame less of FIRST_WAIT; at the last it is clear. -/
theorem lessFirstWait_eq (w : Option Nat) : lessFirstWait w = w.bind fun k => if k ≤ 1 then none else some (k - 1) := by
  cases w <;> rfl

theorem exec_firstWaitEnd_due {c : Nat} (counting : (s.line n).emission.firstWait = some c) (last : c ≤ 1) :
    exec (.firstWaitEnd n) s = .next (countFirstWait n s) := by
  change execFirstWaitEnd n s = _
  simp only [execFirstWaitEnd, counting, last, if_true]

theorem countFirstWait_last {c : Nat} (counting : (s.line n).emission.firstWait = some c) (last : c ≤ 1) :
    countFirstWait n s = s.modLine n fun l => { l with emission := { l.emission with firstWait := none } } :=
  modLine_congr s n (by simp only [counting, lessFirstWait, last, if_true])

/-! ## The output frame (R123 to R126) -/

theorem emitterFrame_quiet (quiet : (s.line n).emission.state = .quiet) : emitterFrame n s = takeIfFree n s := by
  simp only [emitterFrame, quiet]

theorem emitterFrame_tone {b : Burst} (tone : (s.line n).emission.state = .tone b) : emitterFrame n s =
    if b.remaining = 0 then endBurst n b s
    else s.setEmitter n (.tone { b with sample := b.sample + 1, remaining := b.remaining - 1 }) := by
  simp only [emitterFrame, tone]

theorem emitterFrame_gap {r : Nat} (gap : (s.line n).emission.state = .gap r) : emitterFrame n s =
    if r = 0 then takeIfFree n (endGap n s) else s.setEmitter n (.gap (r - 1)) := by
  simp only [emitterFrame, gap]

theorem emitterFrame_flashOut {r g : Nat} (flashOut : (s.line n).emission.state = .flashOut r g) : emitterFrame n s =
    if r = 0 then endFlash n g s else s.setEmitter n (.flashOut (r - 1) g) := by
  simp only [emitterFrame, flashOut]

theorem emitterFrame_guard {r : Nat} (guard : (s.line n).emission.state = .guard r) : emitterFrame n s =
    if r = 0 then takeIfFree n (endGuard n s) else s.setEmitter n (.guard (r - 1)) := by
  simp only [emitterFrame, guard]

/-! ## The statements, part by part -/

/-- R122, R125: the end of a gap by itself. -/
theorem exec_gapEnd_cases (last : (s.line n).emission.state = .gap 0) :
    ((∀ sym notify, (s.line n).emission.slot ≠ some ⟨sym, notify, .emitting⟩) → exec (.gapEnd n) s = .next
      (s.modLine n fun l => { l with emission := { l.emission with state := .quiet } })) ∧
    (∀ sym, (s.line n).emission.slot = some ⟨sym, false, .emitting⟩ → exec (.gapEnd n) s = .next
      (s.modLine n fun l => { l with emission := { l.emission with state := .quiet, slot := none } })) ∧
    (∀ sym, (s.line n).emission.slot = some ⟨sym, true, .emitting⟩ → exec (.gapEnd n) s = .next
      (latch n .insertDone (s.modLine n fun l => { l with emission := { l.emission with state := .quiet, slot := none } }))) := by
  rw [exec_gapEnd_due last]
  exact ⟨fun queued => congrArg _ (endGap_queued queued), fun _ emitting => congrArg _ (endGap_inserted emitting rfl),
    fun _ emitting => congrArg _ (endGap_inserted emitting rfl)⟩

end

/-- Settles O37. -/
theorem emittersTakeItems : Obligations.EmittersTakeItems := by
  refine ⟨fun n s quiet noWait free => ?_, fun n s nothing => ?_⟩
  · have takes (waits : (s.line n).emission.slotWaiting = true ∨ (s.line n).emission.queue ≠ []) :
        exec (.emitterTakeItem n) s = .next (takeItem n s) :=
      congrArg _ (takeIfFree_canTake (canTake_iff.mpr ⟨quiet, noWait, free, waits⟩))
    refine ⟨fun sym notify waiting => ?_, fun sym rest empty head => ?_, fun rest empty head => ?_⟩
    · rw [takes (.inl (slotWaiting_iff.mpr ⟨sym, notify, waiting⟩)), takeItem_slot waiting]
    · rw [takes (.inr (by simp [head])), takeItem_digit empty head]
    · rw [takes (.inr (by simp [head])), takeItem_flash empty head]
  · refine congrArg _ (takeIfFree_cannotTake fun can => ?_)
    obtain ⟨quiet, noWait, free, waits⟩ := canTake_iff.mp can
    rcases nothing with busy | counting | held | ⟨noQueue, noSlot⟩
    · exact busy quiet
    · exact counting noWait
    · exact Bool.noConfusion (free.symm.trans held)
    · rcases waits with slot | queue
      · obtain ⟨sym, notify, waiting⟩ := slotWaiting_iff.mp slot
        exact noSlot sym notify waiting
      · exact queue noQueue

/-- Settles O39. -/
theorem emitterStatesEnd : Obligations.EmitterStatesEnd := by
  refine ⟨fun n s => ⟨fun b => exec_burstEnd_due, fun g => exec_flashOpenEnd_due, exec_guardEnd_due, exec_gapEnd_cases⟩,
    fun n s c counting last => ?firstWaitEnds,
    fun n s r => ⟨fun b tone left => ?_, fun gap => ?_, fun g flashOut => ?_, fun guard => ?_⟩,
    fun n s => ⟨fun quiet => ?_, fun b tone last => ?_, fun last => ?_, fun g last => ?_, fun last => ?_⟩, fun n s => ?counts⟩
  case firstWaitEnds => rw [exec_firstWaitEnd_due counting last, countFirstWait_last counting last]
  case counts => exact modLine_congr s n (by simp only [lessFirstWait_eq])
  · rw [emitterFrame_tone tone, if_neg (by omega), left]
    rfl
  · exact emitterFrame_gap gap
  · exact emitterFrame_flashOut flashOut
  · exact emitterFrame_guard guard
  · rw [emitterFrame_quiet quiet, exec_emitterTakeItem]
  · rw [emitterFrame_tone tone, if_pos last, exec_burstEnd_due tone last]
  · exact ⟨_, exec_gapEnd_due last, by rw [emitterFrame_gap last]; rfl⟩
  · rw [emitterFrame_flashOut last, if_pos rfl, exec_flashOpenEnd_due last]
  · exact ⟨_, exec_guardEnd_due last, by rw [emitterFrame_guard last]; rfl⟩

end Sys2Proof.Machine
end

section
/-! PROOF. O59: TONE-INSERT, EMIT-HOLD and EMIT-RESUME, and the report that they are acknowledged with. -/

namespace Sys2Proof.Machine

section

variable {s : State}

/-! ## Effects (R121, R129) -/

/-- R121: TONE-INSERT of a named line and symbol: NOCALL before BUSY. -/
theorem reqToneInsert_named (n : LineId) (sym : Symbol) (f : Byte) (s : State) {t : State}
    (filled : t = s.modLine n fun l => { l with emission := { l.emission with slot := some ⟨sym, f.getLsbD 0, .waiting⟩ } }) :
    reqToneInsert [octet n.val, octet sym.val, f] s =
      if (s.callOf n).isNone then refuseWith s .nocall
      else if (s.line n).emission.slot.isSome then refuseWith s .busy
      else ackWith t (.emitter (t.line n).emission.report) := by
  subst filled
  have symbol : (octet sym.val).toNat = sym.val := toNat_octet_of_lt (sym.isLt.trans (by decide))
  simp only [reqToneInsert, lineOf_octet, symbol, sym.isLt, dite_true, modEmission_eq]

theorem reqToneInsert_outside {b : Byte} (outside : 48 ≤ b.toNat) (y f : Byte) (s : State) :
    reqToneInsert [b, y, f] s = refuseWith s .range := by
  simp only [reqToneInsert, lineOf_none outside]

/-- R121: an octet that names no symbol is refused on any line. -/
theorem reqToneInsert_noSymbol {b y : Byte} (inside : b.toNat < 48) (noSymbol : 16 ≤ y.toNat) (f : Byte) (s : State) :
    reqToneInsert [b, y, f] s = refuseWith s .value := by
  simp only [reqToneInsert, lineOf, inside, Nat.not_lt.mpr noSymbol, dite_true, dite_false]

/-- R129: HOLD, as it is set or cleared. -/
theorem setHold_eq (hold : Bool) (n : LineId) (s : State) {t : State}
    (held : t = s.modLine n fun l => { l with emission := { l.emission with hold := hold } }) : setHold hold n s =
      if (s.callOf n).isNone then refuseWith s .nocall else ackWith t (.emitter (t.line n).emission.report) := by
  subst held
  rfl

/-! ## Commands -/

theorem exec_toneInsert_refused {params : List Byte} {c : RefusalCode} (ready : s.ready) (tag : Byte) (fit : params.length ≤ 62)
    (refused : reqToneInsert params s = refuseWith s c) :
    exec (.toneInsert tag params) s = .next (s.refusedBy tag 0x12 c) := by
  rw [exec_toneInsert_ready ready tag fit, refused, replied_refuseWith]

theorem exec_emitHold_named (ready : s.ready) (tag : Byte) (n : LineId) :
    exec (.emitHold tag [octet n.val]) s = .next ((setHold true n s).replied s tag 0x13) := by
  rw [exec_emitHold_ready ready tag (by simp), reqEmitHold, withLine_octet]

theorem exec_emitResume_named (ready : s.ready) (tag : Byte) (n : LineId) :
    exec (.emitResume tag [octet n.val]) s = .next ((setHold false n s).replied s tag 0x14) := by
  rw [exec_emitResume_ready ready tag (by simp), reqEmitResume, withLine_octet]

end

/-! ## The emitter report (R137) -/

theorem report_slot_iff (e : Emission) : (e.report.slot = .empty ↔ e.slot = none) ∧
    (e.report.slot = .waiting ↔ ∃ y f, e.slot = some ⟨y, f, .waiting⟩) ∧
    (e.report.slot = .emitting ↔ ∃ y f, e.slot = some ⟨y, f, .emitting⟩) := by
  unfold Emission.report
  rcases e.slot with _ | ⟨sym, notify, condition⟩
  · simp
  · cases condition <;> simp

/-- Settles O59. -/
theorem emitterRequestsActOnCalls : Obligations.EmitterRequestsActOnCalls := by
  refine ⟨fun s tag f n sym ready => ⟨fun noCall => ⟨?_, ?_, ?_⟩, fun call => ?_⟩,
    fun e => ⟨rfl, rfl, rfl, rfl, report_slot_iff e⟩,
    fun s tag b y f ready => ⟨fun outside => ⟨?_, ?_, ?_⟩, fun inside noSymbol => ?_⟩⟩
  · exact exec_toneInsert_refused ready tag (by simp) (by rw [reqToneInsert_named n sym f s rfl, noCall]; rfl)
  · rw [exec_emitHold_named ready tag n, setHold_eq true n s rfl, noCall]
    rfl
  · rw [exec_emitResume_named ready tag n, setHold_eq false n s rfl, noCall]
    rfl
  · have called : ¬(s.callOf n).isNone = true := by rw [Option.isNone_eq_false_iff.mpr call]; exact Bool.false_ne_true
    refine ⟨fun busy => ?_, ?_, ?_, ?_⟩
    · exact exec_toneInsert_refused ready tag (by simp) (by
        rw [reqToneInsert_named n sym f s rfl, if_neg called, if_pos busy])
    · rintro empty t rfl
      rw [exec_toneInsert_ready ready tag (by simp), reqToneInsert_named n sym f s rfl, if_neg called, if_neg (by simp [empty]),
        replied_ackWith _ _ _ (modLine_replies s n _)]
    · rintro t rfl
      rw [exec_emitHold_named ready tag n, setHold_eq true n s rfl, if_neg called, replied_ackWith _ _ _ (modLine_replies s n _)]
    · rintro t rfl
      rw [exec_emitResume_named ready tag n, setHold_eq false n s rfl, if_neg called,
        replied_ackWith _ _ _ (modLine_replies s n _)]
  · exact exec_toneInsert_refused ready tag (by simp) (reqToneInsert_outside outside y f s)
  · rw [exec_emitHold_ready ready tag (by simp), reqEmitHold, withLine_outside outside, replied_refuseWith]
  · rw [exec_emitResume_ready ready tag (by simp), reqEmitResume, withLine_outside outside, replied_refuseWith]
  · exact exec_toneInsert_refused ready tag (by simp) (reqToneInsert_noSymbol inside noSymbol f s)

end Sys2Proof.Machine
end

section
/-! PROOF. O38: the samples of a tone burst. -/

namespace Sys2Proof.Machine

/-- R136 step 3: saturation is the nearest value of the range. -/
theorem saturateSample_eq (v : Int) : saturateSample v = max (-8191) (min 8191 v) := by
  unfold saturateSample
  split
  · omega
  · split <;> omega

/-- R136: the sample of a burst, from the phases of R135. -/
theorem toneSample_eq (b : Burst) : b.toneSample = max (-8191) (min 8191
    ((b.ampLow * sine (b.sample * b.incLow % 65536) + b.ampHigh * sine (b.sample * b.incHigh % 65536)).tdiv 4096)) :=
  saturateSample_eq _

theorem sine_zero : sine 0 = 0 := by decide +kernel

/-- R135, R136: both phases of sample 0 are 0, so the burst begins at 0. -/
theorem toneSample_first {b : Burst} (first : b.sample = 0) : b.toneSample = 0 := by
  simp [toneSample_eq, first, sine_zero]

/-- R136: the sine at the phases that the spec works out. -/
theorem sine_worked : sine 5710 = 4263 ∧ sine 9904 = 6660 ∧ sine 11420 = 7281 ∧ sine 19808 = 7754 ∧ sine 16384 = 8191 ∧
    sine 49152 = -8191 ∧ sine 32768 = 0 := by decide +kernel

/-- Settles O38. -/
theorem burstsAreSynthesised : Obligations.BurstsAreSynthesised :=
  ⟨fun _ _ _ => rfl, toneSample_eq, fun _ => toneSample_first, sine_worked⟩

end Sys2Proof.Machine
end

section
/-! PROOF. O19: the SU channels. O20: the mute sources and the mute state. O47: the status requests and what the voice report shows. -/

namespace Sys2Proof.Machine

/-! ## The SU channel of a line -/

section

variable {s : State} {n : LineId}

theorem suSample_tone {b : Burst} (tone : (s.line n).emission.state = .tone b) :
    s.suSample n = BitVec.ofInt 14 b.toneSample := by simp only [State.suSample, tone]

/-- R139: outside TONE the sample is the line's voice, which MUTED silences. -/
theorem suSample_noTone (noTone : ∀ b, (s.line n).emission.state ≠ .tone b) :
    s.suSample n = if (s.line n).voice.mute = .muted then 0 else s.lastVoice.get n := by
  unfold State.suSample
  split
  · exact absurd ‹_› (noTone _)
  · cases (s.line n).voice.mute <;> rfl

end

/-- R144: in CONVERT the line is off-hook while a call is open, but for a flash. -/
theorem hook_convert {l : Line} (convert : l.config.mode = .convert) :
    l.hook = true ↔ l.decoder.call.isSome = true ∧ ∀ r g, l.emission.state ≠ .flashOut r g := by
  simp only [Line.hook, convert, Bool.and_eq_true]
  cases l.emission.state <;> simp

/-- R145: in PASS the hook bit is the loop state, but for a fault. -/
theorem hook_pass {l : Line} (pass : l.config.mode = .pass) :
    l.hook = true ↔ l.filter.fault = false ∧ l.filter.loop = .closed := by simp [Line.hook, pass]

/-- R146. -/
theorem hook_parked {l : Line} (parked : l.config.mode = .parked) : l.hook = false := by simp only [Line.hook, parked]

/-- Settles O19. -/
theorem suChannelsAreFormed : Obligations.SuChannelsAreFormed :=
  ⟨fun _ _ => ⟨fun _ tone => suSample_tone tone, fun noTone muted => (suSample_noTone noTone).trans (if_pos muted),
      fun noTone heard => (suSample_noTone noTone).trans (if_neg heard)⟩,
    fun _ => ⟨rfl, hook_convert, hook_pass, hook_parked⟩⟩

/-! ## The mute sources -/

/-- Source a: the decoder states in which the line may be dialling (R140). -/
theorem dialling_iff (d : Decoder) : d.dialling = true ↔ d = .seizing ∨ ∃ c,
    (∃ p, d = .inCall (.opened p) c) ∨ d = .inCall (.closed .indigit) c ∨ d = .inCall (.closed .discard) c := by
  rcases d with _ | _ | _ | ⟨⟨⟨⟩⟩ | p, c⟩ <;> simp [Decoder.dialling]

/-- Source b: the emitter is at work, or has work waiting (R140). -/
theorem busy_iff (e : Emission) : e.busy = true ↔ e.state ≠ .quiet ∨ e.queue ≠ [] ∨ e.slot ≠ none := by
  simp [Emission.busy, or_assoc, Option.isSome_iff_ne_none]

/-- Source d, in each mode (R140). -/
theorem sourcesOf_d_iff (s : State) (n : LineId) : (s.sourcesOf n).d = true ↔
    (s.line n).config.mode = .convert ∧ (s.line n).decoder = .fault ∨
      (s.line n).config.mode = .pass ∧ (s.line n).filter.fault = true ∨ (s.line n).config.mode = .parked := by
  cases mode : (s.line n).config.mode <;> simp [State.sourcesOf, mode]

theorem not_up_iff (a : Aligner) : (!a.up) = true ↔ a.state = .hunt ∨ a.state = .confirm := by
  rw [Bool.not_eq_true', ← Bool.not_eq_true, up_iff]
  cases a.state <;> simp

/-- R140: which sources are present on a line. -/
theorem sourcesOf_iff (s : State) (n : LineId) :
    ((s.sourcesOf n).a = true ↔ (s.line n).config.mode = .convert ∧ (s.line n).decoder.dialling = true) ∧
    ((s.sourcesOf n).b = true ↔ (s.line n).config.mode = .convert ∧ (s.line n).emission.busy = true) ∧
    (s.sourcesOf n).c = (s.line n).config.lineMute ∧ ((s.sourcesOf n).e = true ↔ s.lu.state = .hunt ∨ s.lu.state = .confirm) := by
  refine ⟨?_, ?_, rfl, not_up_iff s.lu⟩ <;> simp [State.sourcesOf]

/-! ## The mute state (R141) -/

section

variable {x : Sources} (m : MuteState) (v : Sample)

theorem forward_immediate (present : x.immediate = true) : m.forward x v = .muted := if_pos present

theorem forward_zeroCross (absent : x.immediate = false) (present : x.zeroCross = true) : m.forward x v = match m with
    | .passing => if v.toInt.natAbs ≤ 64 then .muted else .pending 0
    | .pending w => if v.toInt.natAbs ≤ 64 ∨ 8 ≤ w + 1 then .muted else .pending (w + 1)
    | .muted => .muted := by
  cases m <;> simp [MuteState.forward, absent, present, nearZero]

theorem forward_none : m.forward ⟨false, false, false, false, false⟩ v = .passing := rfl

theorem immediate_iff : x.immediate = true ↔ x.d = true ∨ x.e = true := by simp [Sources.immediate]

theorem zeroCross_iff : x.zeroCross = true ↔ x.a = true ∨ x.b = true ∨ x.c = true := by simp [Sources.zeroCross, or_assoc]

end

/-! ## The Voice Selectors in an output frame -/

/-- The lines' part of the frame has settled the last carried samples. -/
theorem lastVoice_outputFrame (s : State) : (outputFrame s).lastVoice = (lineFrames (formLD s)).lastVoice :=
  (samePorts_outputFrame s).lastVoice.trans (samePorts_lineFrames (formLD s)).lastVoice.symm

theorem line_formLD (s : State) (n : LineId) : (formLD s).line n = s.line n := rfl

/-- What an output frame leaves in a line's Voice Selector: the mute state taken forward once, and what the SU channel shows (R139, R141,
R149). -/
theorem voice_outputFrame (s : State) (n : LineId) : ((outputFrame s).line n).voice =
    ⟨(s.line n).voice.mute.forward ((lineFrames (formLD s)).sourcesOf n) ((outputFrame s).lastVoice.get n),
      ((outputFrame s).su.channels.get n).a, ((outputFrame s).su.channels.get n).b, (lineFrames (formLD s)).sourcesOf n⟩ := by
  obtain ⟨_, _, _, rfl, _, _, _, channels, voices, _, _⟩ := outputFrame_forms (s := s) rfl rfl
  rw [voices, channels, line_forLines_voiceFrame, voice_lineFrames, lastVoice_outputFrame, line_formLD]

/-- MUTE_WAIT_LIMIT by itself takes the mute state alone (log entry 1). -/
theorem exec_muteWaitLimit (n : LineId) (s : State) : exec (.muteWaitLimit n) s =
    .next (if waitLimitDue n s then s.modLine n fun l => { l with voice := { l.voice with mute := .muted } } else s) := rfl

theorem waitLimitDue_of_pending {n : LineId} {s : State} {w : Nat} (absent : (s.sourcesOf n).immediate = false)
    (present : (s.sourcesOf n).zeroCross = true) (pending : (s.line n).voice.mute = .pending w) (long : 7 ≤ w) :
    waitLimitDue n s = true := by simp [waitLimitDue, absent, present, pending, long]

/-- Settles O20. -/
theorem muteStateGoesForward : Obligations.MuteStateGoesForward := by
  refine ⟨fun s n => ?_, fun m x v => ⟨fun present => ?_, fun noD noE present => ?_, ?_⟩, fun n s => ?_,
    fun s ticks => ⟨outputFrame s, exec_outputFrame ticks, fun n => by rw [voice_outputFrame]⟩,
    fun n s w absent present pending long => ?_⟩
  · obtain ⟨a, b, c, e⟩ := sourcesOf_iff s n
    rw [dialling_iff] at a
    rw [busy_iff] at b
    exact ⟨a, b, c, sourcesOf_d_iff s n, e⟩
  · exact forward_immediate m v (immediate_iff.mpr present)
  · have absent : x.immediate = false := by simp [Sources.immediate, noD, noE]
    have forward := forward_zeroCross m v absent (zeroCross_iff.mpr present)
    refine ⟨?_, fun w => ?_, ?_⟩ <;> rintro rfl <;> exact forward
  · rintro rfl
    exact forward_none m v
  · rw [voiceFrame, line_modLine_self]
  · rw [exec_muteWaitLimit, if_pos (waitLimitDue_of_pending absent present pending long)]

/-! ## The commands that leave the Voice Selectors alone -/

section

variable {v : LineId → Voice} {s t : State}

theorem voicesAre_huntBits (d : Direction) (bits : List Bool) (p : s.voicesAre v) : (huntBits d bits s).voicesAre v := by
  unfold huntBits
  split
  · cases d <;> exact p
  · exact p

/-- Delivery touches the lines through the requests that its octets complete (R12). -/
theorem voicesAre_deliver (d : Direction) (f : Frame) (p : s.voicesAre v) : (deliver d f s).voicesAre v := by
  have octets := fun b u => (closedQueue_voicesAre v).receiveOctet (s := u) b
  cases d with
  | lu => exact p
  | sd => exact octets _ _ (octets _ _ p)

theorem voicesAre_lockOn (d : Direction) (f : Frame) (p : s.voicesAre v) : (lockOn d f s).voicesAre v :=
  voicesAre_deliver d f (by cases d <;> exact p)

theorem voicesAre_loseAlignment (d : Direction) (p : s.voicesAre v) : (loseAlignment d s).voicesAre v := by
  cases d <;> exact p

theorem voicesAre_setAligner (d : Direction) (a : Aligner) (p : s.voicesAre v) : (s.setAligner d a).voicesAre v := by
  cases d <;> exact p

theorem voicesAre_checkMarker (d : Direction) (f : Frame) (p : s.voicesAre v) : (checkMarker d f s).voicesAre v := by
  have set := fun a => voicesAre_setAligner d a p
  by_cases up : (s.aligner d).up = true
  · rw [checkMarker_up up]
    split_ifs
    · exact voicesAre_deliver d f (set _)
    · exact voicesAre_loseAlignment d p
    · exact voicesAre_deliver d f (set _)
  · rcases (not_up_iff _).mp (by simpa using up) with h | h
    · simpa only [checkMarker, h] using p
    · rw [checkMarker_confirm h]
      split_ifs
      · exact voicesAre_lockOn d f p
      · exact set _
      · exact set _

theorem voicesAre_offerCommand (c : Instr) (r : Request) (p : s.voicesAre v) (e : offerCommand c r s = .next t) : t.voicesAre v := by
  unfold offerCommand at e
  split at e
  · cases e
    exact (closedQueue_voicesAre v).offer r p
  · cases e

/-- R149: of the commands only OUTPUT_FRAME, POWER_ON_RESET and MUTE_WAIT_LIMIT touch a Voice Selector. -/
theorem voicesAre_exec {c : Instr} (frame : c ≠ .outputFrame) (reset : c ≠ .powerOnReset) (wait : ∀ n, c ≠ .muteWaitLimit n)
    (p : s.voicesAre v) (e : exec c s = .next t) : t.voicesAre v := by
  have queue := closedQueue_voicesAre v
  cases on : eventLine c with
  | some n => exact (queue.on n).exec (fun h => absurd h (wait n)) on p e
  | none =>
    cases c with
    | outputFrame => exact absurd rfl frame
    | powerOnReset => exact absurd rfl reset
    | huntMarkerFound d bits => cases e; exact voicesAre_huntBits d bits p
    | markerCheck d slots =>
      change execMarkerCheck d slots s = .next t at e
      unfold execMarkerCheck at e
      split at e
      · cases e; exact voicesAre_huntBits d _ p
      · cases e; exact voicesAre_huntBits d _ (voicesAre_checkMarker d _ p)
    | alignmentLock d slots =>
      cases e
      split
      · exact voicesAre_lockOn d _ p
      · exact p
    | alignmentLoss d =>
      cases e
      split
      · exact voicesAre_loseAlignment d p
      · exact p
    | lossHoldExpiry =>
      cases e
      split
      · exact (closedFrame_voicesAre v).expireLossHold p
      · exact p
    | replyStart =>
      cases e
      split
      · exact queue.startReply (queue.chooseNotice p)
      · exact p
    | attention => cases e; exact queue.chooseNotice p
    | softResetAction =>
      cases e
      split
      · exact queue.softResetNow p
      · exact p
    | loopTransition | faultStateChange | seizeExpiry | digitEndExpiry | qualityWindowEnd | dialIdleExpiry | clearExpiry
    | firstWaitEnd | emitterTakeItem | burstEnd | gapEnd | flashOpenEnd | guardEnd | muteWaitLimit => cases on
    | partConfigRead tag =>
      exact voicesAre_offerCommand (.partConfigRead tag) ⟨RequestKind.partConfig.code, tag, []⟩ p e
    | _ => exact voicesAre_offerCommand _ _ p e

/-- R149: MUTE_WAIT_LIMIT of a line touches its mute state alone, and no other line. -/
theorem voice_exec {c : Instr} (frame : c ≠ .outputFrame) (reset : c ≠ .powerOnReset) (e : exec c s = .next t) (n : LineId) :
    (c ≠ .muteWaitLimit n → (t.line n).voice = (s.line n).voice) ∧ ∃ m, (t.line n).voice = { (s.line n).voice with mute := m } := by
  by_cases own : c = .muteWaitLimit n
  · refine ⟨fun other => absurd own other, ?_⟩
    rw [own, exec_muteWaitLimit] at e
    cases e
    split
    · exact ⟨.muted, by rw [line_modLine_self]⟩
    · exact ⟨_, rfl⟩
  · have same : (t.line n).voice = (s.line n).voice := by
      by_cases wait : ∃ k, c = .muteWaitLimit k
      · obtain ⟨k, rfl⟩ := wait
        obtain ⟨_, other, _⟩ := lineEventsChangeOneLine (.muteWaitLimit k) k s t rfl e
        rw [other n fun same => own (same ▸ rfl)]
      · exact voicesAre_exec (v := fun k => (s.line k).voice) frame reset (not_exists.mp wait) (fun _ => rfl) e n
    exact ⟨fun _ => same, (s.line n).voice.mute, same⟩

end

/-! ## The status requests -/

/-- R45: a call that waits off-hook has no digit in progress. -/
theorem reportedPulses_inCall (st : CallState) (c : Call) : (Decoder.inCall st c).reportedPulses =
    if st = .closed .offhook ∨ st = .opened .offhook then 0 else c.pulses := by
  rcases st with ⟨⟨⟩⟩ | ⟨⟨⟩⟩ <;> simp [Decoder.reportedPulses]

/-- R159: the report is taken before the clearing. -/
theorem exec_partStatus_report {s : State} (ready : s.ready) (tag : Byte) : exec (.partStatus tag []) s = .next
    ({ s with partEvents := 0, checkFailures := 0, discardedRequests := 0 }.acked tag 0x02
      (.part s.partEvents s.checkFailures s.discardedRequests s.lu.state s.sd.state)) := by
  rw [exec_partStatus_ready ready tag (by simp)]
  exact congrArg _ (replied_ackWith _ _ _ rfl)

/-- R158: the report is taken before the clearing. -/
theorem exec_lineStatus_report {s : State} (ready : s.ready) (tag : Byte) (n : LineId) : exec (.lineStatus tag [octet n.val]) s = .next
    ((s.modLine n fun l => { l with events := 0, rejectReason := none }).acked tag 0x04 (.lineReport (s.lineReport n))) := by
  rw [exec_lineStatus_ready ready tag (by simp), reqLineStatus, withLine_octet]
  exact congrArg _ (replied_ackWith _ _ _ (modLine_replies s n _))

/-- Settles O47. -/
theorem statusReadsReportAndClear : Obligations.StatusReadsReportAndClear := by
  refine ⟨fun s tag ready => exec_partStatus_report ready tag, fun s tag n ready => exec_lineStatus_report ready tag n,
    reportedPulses_inCall, fun _ => rfl, fun s ticks => ⟨outputFrame s, exec_outputFrame ticks, fun n => ?_⟩,
    fun c s t frame reset e n => voice_exec frame reset e n, fun s tag b ready outside => ?_⟩
  · simp only [Voice.report, voice_outputFrame]
  · rw [exec_lineStatus_ready ready tag (by simp), reqLineStatus, withLine_outside outside, replied_refuseWith]

end Sys2Proof.Machine
end

section
/-! PROOF. O40: what a digit report adds to the window of its line, and the end of the window. -/

namespace Sys2Proof.Machine

/-! ## The report, the test and the command, as the spec writes them -/

/-- R150, R151: what a digit report adds to each counter. -/
theorem addDigit_eq (c : Counters) (r : DigitReport) : c.addDigit r =
    ⟨min 65535 (c.digitsEnded + 1), min 65535 (c.pulses + r.pulses), min 65535 (c.distorted + r.distorted), c.glitches,
      c.abortedRuns, min 65535 (c.rejected + if r.rejected then 1 else 0), min 65535 (c.speedOut + if r.speedOut then 1 else 0),
      c.falseSeizures⟩ := by
  simp only [Counters.addDigit, count, satAdd, toNat_eq_ite]

/-- R153: the extremes after a speed, or after a digit without one. -/
theorem addSpeed_eq (e : Option Extremes) (speed : Option Nat) : addSpeed e speed = match speed, e with
    | none, e => e
    | some v, none => some ⟨v, v⟩
    | some v, some e => some ⟨min e.slowest v, max e.fastest v⟩ := by
  rcases speed with _ | v
  · rfl
  · cases e <;> rfl

/-- R152 step 3. -/
theorem fails_iff (c : Counters) (p : PartConfig) : c.fails p = true ↔
    (0 < c.pulses ∧ p.qualLimit * c.pulses ≤ c.distorted * 100) ∨ p.rejLimit ≤ c.rejected := by
  simp [Counters.fails]

/-- R152: QUALITY_WINDOW_END is an arrival's digit report, taken where a window of a CONVERT line ends with it. -/
theorem exec_qualityWindowEnd (n : LineId) {r : DigitReport} (wf : r.wf = true) (s : State) : exec (.qualityWindowEnd n r) s =
    .next (atArrival s
      (if (s.line n).config.mode = .convert ∧ windowDone n (applyReport n r s) = true then endWindow n (applyReport n r s) else s)) :=
  if_pos wf

/-! ## The window with the report in it -/

section
variable {n : LineId} {r : DigitReport} {s : State} {k : Counters} (counters : (s.line n).quality.current.addDigit r = k)
include counters

theorem applyReport_eq {x : Option Extremes} (extremes : addSpeed (s.line n).quality.extremes r.speed = x) :
    applyReport n r s = s.modLine n fun l => { l with quality := ⟨k, l.quality.last, x⟩ } := by
  subst counters extremes
  exact modLine_congr s n rfl

theorem windowDone_applyReport : windowDone n (applyReport n r s) = true ↔ s.part.qualWindow ≤ k.digitsEnded := by
  rw [windowDone, applyReport_eq counters rfl, line_modLine_self, modLine_part, decide_eq_true_iff]

/-- R152: the counters with the report in them are copied, zeroed and tested. -/
theorem endWindow_applyReport {x : Option Extremes} (extremes : addSpeed (s.line n).quality.extremes r.speed = x) {u : State}
    (zeroed : u = s.modLine n fun l => { l with quality := ⟨Counters.zero, some k, x⟩ }) : endWindow n (applyReport n r s) =
      if (0 < k.pulses ∧ s.part.qualLimit * k.pulses ≤ k.distorted * 100) ∨ s.part.rejLimit ≤ k.rejected
        then latch n .quality u else u := by
  subst zeroed
  simp only [endWindow, modQuality_eq, applyReport_eq counters extremes, line_modLine_self, modLine_part, modLine_modLine, fails_iff]

theorem reportDigit_below (below : k.digitsEnded < s.part.qualWindow) : reportDigit n r s = applyReport n r s :=
  if_neg fun done => Nat.not_le.mpr below ((windowDone_applyReport counters).mp done)

theorem reportDigit_reached (reached : s.part.qualWindow ≤ k.digitsEnded) :
    reportDigit n r s = endWindow n (applyReport n r s) :=
  if_pos ((windowDone_applyReport counters).mpr reached)

/-! ## QUALITY_WINDOW_END where a window ends, and where none does -/

/-- R152: QUALITY_WINDOW_END on a CONVERT line is the report that ends the window. -/
theorem exec_qualityWindowEnd_reached (reached : s.part.qualWindow ≤ k.digitsEnded) (up : s.lu.up = true) (wf : r.wf = true)
    (convert : (s.line n).config.mode = .convert) : exec (.qualityWindowEnd n r) s = .next (reportDigit n r s) := by
  have ends := And.intro convert ((windowDone_applyReport counters).mpr reached)
  rw [exec_qualityWindowEnd n wf s, atArrival_of_up up, if_pos ends, reportDigit_reached counters reached]

/-- Log entry 1: where no window ends, and while LU is not up (R48, R151), QUALITY_WINDOW_END changes nothing. -/
theorem exec_qualityWindowEnd_idle (wf : r.wf = true)
    (idle : k.digitsEnded < s.part.qualWindow ∨ (s.line n).config.mode ≠ .convert ∨ s.lu.up = false) :
    exec (.qualityWindowEnd n r) s = .next s := by
  rw [exec_qualityWindowEnd n wf s]
  rcases idle with below | other | down
  · rw [if_neg fun ends => Nat.not_le.mpr below ((windowDone_applyReport counters).mp ends.2), atArrival_self]
  · rw [if_neg fun ends => other ends.1, atArrival_self]
  · rw [atArrival_of_notUp down]

end

/-- Settles O40. -/
theorem qualityWindowsEnd : Obligations.QualityWindowsEnd := by
  intro n r s u q k x current counted widened zeroed
  have counters : (s.line n).quality.current.addDigit r = k := by rw [counted, current, addDigit_eq]
  have extremes : addSpeed (s.line n).quality.extremes r.speed = x := (addSpeed_eq _ _).trans widened.symm
  refine ⟨fun below => (reportDigit_below counters below).trans (applyReport_eq counters extremes), fun reached => ?_,
    exec_qualityWindowEnd_idle counters⟩
  have report := (reportDigit_reached counters reached).trans (endWindow_applyReport counters extremes zeroed)
  exact ⟨report, fun up wf convert =>
    (exec_qualityWindowEnd_reached counters reached up wf convert).trans (congrArg _ report)⟩

end Sys2Proof.Machine
end

section
/-! PROOF. O42: the receiver. What each octet does in each state of the receiver is said once; a message is then taken part by part. -/

namespace Sys2Proof.Machine

/-! ## One octet, by the state of the receiver -/

section
variable {s : State}

theorem receiveOctet_sync (seek : s.receiver = .seek) : receiveOctet 0xC3 s = { s with receiver := .length } := by
  simp [receiveOctet, seek]

theorem receiveOctet_passedOver (seek : s.receiver = .seek) {b : Byte} (other : b ≠ 0xC3) : receiveOctet b s = s := by
  simp only [receiveOctet, seek]
  exact if_neg other

theorem receiveOctet_length (length : s.receiver = .length) {b : Byte} (least : 2 ≤ b.toNat) (most : b.toNat ≤ 64) :
    receiveOctet b s = { s with receiver := .body b.toNat [] } := by
  simp [receiveOctet, length, least, most]

theorem receiveOctet_badLength (length : s.receiver = .length) {b : Byte} (outside : b.toNat < 2 ∨ 64 < b.toNat) :
    receiveOctet b s = raiseCheckFail { s with receiver := .seek } := by
  simp only [receiveOctet, length]
  exact if_neg (by omega)

theorem receiveOctet_body {len : Nat} {got : List Byte} (body : s.receiver = .body len got) (more : got.length + 1 < len) (b : Byte) :
    receiveOctet b s = { s with receiver := .body len (got ++ [b]) } := by
  simp [receiveOctet, body, Nat.not_le.mpr more]

theorem receiveOctet_bodyEnds {len : Nat} {got : List Byte} (body : s.receiver = .body len got) (last : len ≤ got.length + 1)
    (b : Byte) : receiveOctet b s = { s with receiver := .check (got ++ [b]) none } := by
  simp [receiveOctet, body, last]

theorem receiveOctet_firstCheck {got : List Byte} (check : s.receiver = .check got none) (b : Byte) :
    receiveOctet b s = { s with receiver := .check got (some b) } := by
  simp only [receiveOctet, check]

theorem receiveOctet_good {got : List Byte} {r : Request} {u : State}
    (check : s.receiver = .check got (some (checkSum (octet got.length :: got)))) (spells : requestOf got = some r)
    (found : u = { s with receiver := .seek }) :
    receiveOctet (checkXor (octet got.length :: got)) s = offer r u := by
  subst found
  simp [receiveOctet, check, finishMessage, spells]

theorem receiveOctet_badCheck {got : List Byte} {first second : Byte} (check : s.receiver = .check got (some first))
    (wrong : first ≠ checkSum (octet got.length :: got) ∨ second ≠ checkXor (octet got.length :: got)) :
    receiveOctet second s = raiseCheckFail { s with receiver := .seek } := by
  simp only [receiveOctet, check, finishMessage]
  exact if_neg (not_and_or.mpr wrong)

end

/-! ## The parts of a message -/

/-- The octets that are still wanting to a body, one after another. -/
theorem receive_restOfBody {len : Nat} {bs : List Byte} (some_ : bs ≠ []) : ∀ {s : State} {got : List Byte},
    s.receiver = .body len got → got.length + bs.length = len →
    bs.foldl (fun t b => receiveOctet b t) s = { s with receiver := .check (got ++ bs) none } := by
  induction bs with
  | nil => exact absurd rfl some_
  | cons b bs ih =>
    intro s got body whole
    rw [List.length_cons] at whole
    rw [List.foldl_cons]
    rcases bs with _ | ⟨c, rest⟩
    · exact receiveOctet_bodyEnds body (by simp at whole; omega) b
    · rw [receiveOctet_body body (by simp at whole; omega) b, ih (by simp) rfl (by simp at whole ⊢; omega)]
      simp

/-- R162: SYNC, LEN and the body of a message, from SEEK. -/
theorem receive_upToChecks {s : State} {body : List Byte} (seek : s.receiver = .seek) (least : 2 ≤ body.length)
    (most : body.length ≤ 64) :
    (0xC3 :: octet body.length :: body).foldl (fun t b => receiveOctet b t) s = { s with receiver := .check body none } := by
  have carried : (octet body.length).toNat = body.length := toNat_octet_of_lt (by omega)
  have some_ : body ≠ [] := List.ne_nil_of_length_pos (by omega)
  rw [List.foldl_cons, receiveOctet_sync seek, List.foldl_cons, receiveOctet_length rfl (by omega) (by omega), carried,
    receive_restOfBody some_ rfl (by simp)]
  rfl

theorem messageOctets_eq (body : List Byte) : messageOctets body =
    (0xC3 :: octet body.length :: body) ++ [checkSum (octet body.length :: body), checkXor (octet body.length :: body)] := rfl

/-- R161, R162: a whole message from SEEK offers the request that its body spells. -/
theorem receive_message {s : State} {body : List Byte} {r : Request} (seek : s.receiver = .seek) (spells : requestOf body = some r)
    (least : 2 ≤ body.length) (most : body.length ≤ 64) :
    (messageOctets body).foldl (fun t b => receiveOctet b t) s = offer r s := by
  rw [messageOctets_eq, List.foldl_append, receive_upToChecks seek least most, List.foldl_cons, receiveOctet_firstCheck rfl,
    List.foldl_cons, receiveOctet_good rfl spells (u := s) (by rw [← seek]), List.foldl_nil]

/-! ## The check pair (R161) -/

theorem toNat_sum_octets (bs : List Byte) (a : Byte) :
    (bs.foldl (· + ·) a).toNat = (a.toNat + (bs.map BitVec.toNat).sum) % 256 := by
  induction bs generalizing a with
  | nil => simp [Nat.mod_eq_of_lt a.isLt]
  | cons b bs ih =>
    rw [List.foldl_cons, ih, BitVec.toNat_add, List.map_cons, List.sum_cons]
    omega

theorem toNat_checkSum {body : List Byte} (most : body.length ≤ 64) :
    (checkSum (octet body.length :: body)).toNat = (body.length + (body.map BitVec.toNat).sum) % 256 := by
  rw [checkSum, List.foldl_cons, zero_add, toNat_sum_octets, toNat_octet_of_lt (by omega)]

theorem checkXor_eq (body : List Byte) : checkXor (octet body.length :: body) = body.foldl (· ^^^ ·) (octet body.length) := by
  simp [checkXor]

/-- Settles O42. -/
theorem receiverFramesMessages : Obligations.ReceiverFramesMessages := by
  refine ⟨fun s kind tag ps seek fit => receive_message seek rfl (by simp) (by simp; omega), fun body most =>
    ⟨_, _, messageOctets_eq body, toNat_checkSum most, checkXor_eq body⟩, fun s b seek other => receiveOctet_passedOver seek other,
    fun s b length outside => receiveOctet_badLength length outside, fun s got first second check wrong =>
    receiveOctet_badCheck check wrong⟩

end Sys2Proof.Machine
end

section
/-! PROOF. O43: the request slot. What an offer does by what the slot and the reply queue hold, and the requests that are refused UNKNOWN
or FORMAT. -/

namespace Sys2Proof.Machine

/-! ## The slot (R164, R165) -/

section
variable {s : State}

theorem runSlot_empty (empty : s.slot = none) : runSlot s = s := by simp only [runSlot, empty]

theorem runSlot_executes {r : Request} (waits : s.slot = some r) (room : s.replies.length < 4) : runSlot s = execute r s := by
  simp only [runSlot, waits, if_pos room]

theorem runSlot_waits {r : Request} (waits : s.slot = some r) (full : 4 ≤ s.replies.length) : runSlot s = s := by
  simp only [runSlot, waits, if_neg (Nat.not_lt.mpr full)]

theorem offer_empty (empty : s.slot = none) (r : Request) : offer r s = runSlot { s with slot := some r } := by
  simp only [offer, empty]

theorem offer_occupied {q : Request} (waits : s.slot = some q) (r : Request) : offer r s = raiseRequestDiscard s := by
  simp only [offer, waits]

end

/-! ## Requests of a length that does not fit (R165 check 2) -/

section
variable {s : State} {ps : List Byte}

theorem withNothing_format (some_ : ps ≠ []) (e : Executed) : withNothing ps s e = refuseWith s .format := if_neg some_

theorem withLine_format (other : ps.length ≠ 1) (f : LineId → Executed) : withLine ps s f = refuseWith s .format := by
  unfold withLine
  split
  · exact absurd rfl other
  · rfl

theorem onSet_format (other : ps.length ≠ 2) (f : Fin 8 → Executed) (g : Fin 4 → Executed) :
    onSet ps s f g = refuseWith s .format := by
  unfold onSet
  split
  · exact absurd rfl other
  · rfl

theorem reqPartConfig_format (some_ : ps ≠ []) (other : ps.length ≠ 9) : reqPartConfig ps s = refuseWith s .format := by
  rw [reqPartConfig, if_neg some_, if_neg other]

theorem reqLineConfig_format (other : ps.length ≠ 9) : reqLineConfig ps s = refuseWith s .format := by
  rw [reqLineConfig, if_pos other]

theorem reqProfileRead_format (other : ps.length ≠ 1) : reqProfileRead ps s = refuseWith s .format := by
  unfold reqProfileRead
  split
  · exact absurd rfl other
  · rfl

theorem reqProfileWrite_format (other : ps.length ≠ 39) : reqProfileWrite ps s = refuseWith s .format := by
  rcases ps with _ | ⟨b, record⟩
  · rfl
  · exact if_pos fun whole => other (congrArg (· + 1) whole)

theorem reqCursorSet_format (other : ps.length ≠ 5) : reqCursorSet ps s = refuseWith s .format := by
  unfold reqCursorSet
  split
  · exact absurd rfl other
  · rfl

theorem reqTableRead_format (other : ps.length ≠ 1) : reqTableRead ps s = refuseWith s .format := by
  unfold reqTableRead
  split
  · exact absurd rfl other
  · rfl

theorem reqToneInsert_format (other : ps.length ≠ 3) : reqToneInsert ps s = refuseWith s .format := by
  unfold reqToneInsert
  split
  · exact absurd rfl other
  · rfl

/-- R174: no entry, a part of an entry, or more entries than the kind allows. -/
theorem carriedEntries_eq_none {size most : Nat} (unfit : ps.length = 0 ∨ ps.length % size ≠ 0 ∨ most * size + size ≤ ps.length)
    (pos : 0 < size) : carriedEntries size most ps = none := by
  refine if_neg fun ⟨whole, some_, few⟩ => ?_
  have undivided : ps.length / size * size = ps.length := Nat.div_mul_cancel (Nat.dvd_of_mod_eq_zero whole)
  have bounded : ps.length / size * size ≤ most * size := Nat.mul_le_mul_right size few
  have filled : size ≤ ps.length / size * size := Nat.le_mul_of_pos_left size some_
  omega

/-- R174: TABLE-WRITE and TABLE-COMPARE with no whole number of entries, or too many, for the table that the cursor names. -/
theorem tableRequests_format (trans : ∀ k, s.cursor.table = .trans k → ps.length = 0 ∨ 20 < ps.length)
    (code : ∀ k, s.cursor.table = .code k → ps.length = 0 ∨ ps.length % 9 ≠ 0 ∨ 54 < ps.length)
    (tone : s.cursor.table = .tone → ps.length = 0 ∨ ps.length % 8 ≠ 0 ∨ 56 < ps.length) :
    reqTableWrite ps s = refuseWith s .format ∧ s.supplied ps = .error .format := by
  rcases table : s.cursor.table with k | k | _
  · have unfit := trans k table
    have none_ : carriedEntries 1 20 ps = none := carriedEntries_eq_none (by omega) (by decide)
    exact ⟨by simp only [reqTableWrite, table, writeTrans, none_], by simp only [State.supplied, table, none_]⟩
  · have unfit := code k table
    have none_ : carriedEntries 9 6 ps = none := carriedEntries_eq_none (by omega) (by decide)
    exact ⟨by simp only [reqTableWrite, table, writeCode, none_], by simp only [State.supplied, table, none_]⟩
  · have unfit := tone table
    have none_ : carriedEntries 8 7 ps = none := carriedEntries_eq_none (by omega) (by decide)
    exact ⟨by simp only [reqTableWrite, table, writeTones, none_], by simp only [State.supplied, table, none_]⟩

theorem reqTableCompare_format (unfit : s.supplied ps = .error .format) : reqTableCompare ps s = refuseWith s .format := by
  simp only [reqTableCompare, unfit]

/-! ## The commands -/

theorem kindNamed_eq_false {kind : Byte} (unnamed : kind = 0 ∨ 0x17 < kind.toNat) : kindNamed kind = false := by
  rcases unnamed with rfl | above
  · rfl
  · simp [kindNamed, above]

/-- A command whose execution is known to be a refusal. -/
theorem next_refused {o : Host.Outcome State Fault Refusal} {e : Executed} {tag kind : Byte} {c : RefusalCode}
    (runs : o = .next (e.replied s tag kind)) (refused : e = refuseWith s c) : o = .next (s.refusedBy tag kind c) := by
  rw [runs, replied_of_refuseWith refused]

section
variable (ready : s.ready) (tag : Byte) (fit : ps.length ≤ 62)
include ready fit

theorem exec_format_nothing (some_ : ps ≠ []) : exec (.identify tag ps) s = .next (s.refusedBy tag 0x01 .format) ∧
    exec (.partStatus tag ps) s = .next (s.refusedBy tag 0x02 .format) ∧
    exec (.tableClear tag ps) s = .next (s.refusedBy tag 0x0D .format) ∧
    exec (.tableClearcheck tag ps) s = .next (s.refusedBy tag 0x0E .format) ∧
    exec (.softReset tag ps) s = .next (s.refusedBy tag 0x17 .format) :=
  ⟨next_refused (exec_identify_ready ready tag fit) (withNothing_format some_ _),
    next_refused (exec_partStatus_ready ready tag fit) (withNothing_format some_ _),
    next_refused (exec_tableClear_ready ready tag fit) (withNothing_format some_ _),
    next_refused (exec_tableClearcheck_ready ready tag fit) (withNothing_format some_ _),
    next_refused (exec_softReset_ready ready tag fit) (withNothing_format some_ _)⟩

theorem exec_format_oneOctet (other : ps.length ≠ 1) : exec (.lineStatus tag ps) s = .next (s.refusedBy tag 0x04 .format) ∧
    exec (.lineReset tag ps) s = .next (s.refusedBy tag 0x06 .format) ∧
    exec (.profileRead tag ps) s = .next (s.refusedBy tag 0x08 .format) ∧
    exec (.tableRead tag ps) s = .next (s.refusedBy tag 0x0B .format) ∧
    exec (.emitHold tag ps) s = .next (s.refusedBy tag 0x13 .format) ∧
    exec (.emitResume tag ps) s = .next (s.refusedBy tag 0x14 .format) ∧
    exec (.captureRead tag ps) s = .next (s.refusedBy tag 0x15 .format) ∧
    exec (.qualityRead tag ps) s = .next (s.refusedBy tag 0x16 .format) :=
  ⟨next_refused (exec_lineStatus_ready ready tag fit) (withLine_format other _),
    next_refused (exec_lineReset_ready ready tag fit) (withLine_format other _),
    next_refused (exec_profileRead_ready ready tag fit) (reqProfileRead_format other),
    next_refused (exec_tableRead_ready ready tag fit) (reqTableRead_format other),
    next_refused (exec_emitHold_ready ready tag fit) (withLine_format other _),
    next_refused (exec_emitResume_ready ready tag fit) (withLine_format other _),
    next_refused (exec_captureRead_ready ready tag fit) (withLine_format other _),
    next_refused (exec_qualityRead_ready ready tag fit) (withLine_format other _)⟩

end
end

/-- Settles O43. -/
theorem theSlotHoldsOneRequest : Obligations.TheSlotHoldsOneRequest := by
  refine ⟨fun s r empty full => ?_, fun s r ready => ⟨?_, slot_execute r s⟩, fun s r q waits => ?_,
    fun s kind tag ps ready fit unnamed => exec_unknownRequest_ready ready kind tag (kindNamed_eq_false unnamed) fit,
    fun s tag ps ready fit => ⟨exec_format_nothing ready tag fit, fun some_ other => ?_, exec_format_oneOctet ready tag fit,
      fun other => ?_, fun other => ?_, fun other => ?_, fun other => ?_, fun other => ?_, fun trans code tone => ?_⟩,
    rfl, fun s => rfl⟩
  · exact (offer_empty empty r).trans (runSlot_waits rfl full)
  · exact (offer_empty ready.1 r).trans (runSlot_executes rfl ready.2)
  · rw [offer_occupied waits]
    exact ⟨rfl, waits⟩
  · exact next_refused (exec_partConfigWrite_ready ready tag some_ fit) (reqPartConfig_format some_ other)
  · exact next_refused (exec_lineConfig_ready ready tag fit) (reqLineConfig_format other)
  · exact next_refused (exec_profileWrite_ready ready tag fit) (reqProfileWrite_format other)
  · exact next_refused (exec_cursorSet_ready ready tag fit) (reqCursorSet_format other)
  · exact exec_setRequests_refused ready tag fit (onSet_format other)
  · exact next_refused (exec_toneInsert_ready ready tag fit) (reqToneInsert_format other)
  · obtain ⟨write, supplied⟩ := tableRequests_format trans code tone
    exact ⟨next_refused (exec_tableWrite_ready ready tag fit) write,
      next_refused (exec_tableCompare_ready ready tag fit) (reqTableCompare_format supplied)⟩

end Sys2Proof.Machine
end

section
/-! PROOF. O44: the transmitter. The choice at a free position is an attention notice where it is the notice's turn, and a reply otherwise;
an octet position makes that choice and carries the first octet of what it starts. -/

namespace Sys2Proof.Machine

section
variable {s : State}

/-! ## Whose turn it is (R168) -/

theorem attentionTurn_iff : s.attentionTurn = true ↔ s.tx = none ∧ s.attention = true ∧ (s.replies = [] ∨ s.lastSent = .reply) := by
  simp [State.attentionTurn, and_assoc]

theorem chooseNotice_turn (free : s.tx = none) (wanted : s.attention = true) (turn : s.replies = [] ∨ s.lastSent = .reply) :
    chooseNotice s = startAttention s := if_pos (attentionTurn_iff.mpr ⟨free, wanted, turn⟩)

theorem chooseNotice_noTurn (no : s.tx.isSome = true ∨ s.attention = false ∨ s.replies ≠ [] ∧ s.lastSent = .notice) :
    chooseNotice s = s := by
  refine if_neg fun turn => ?_
  obtain ⟨free, wanted, first⟩ := attentionTurn_iff.mp turn
  rcases no with busy | unwanted | ⟨waits, notice⟩
  · simp [free] at busy
  · simp [wanted] at unwanted
  · simp [waits, notice] at first

theorem chooseNotice_replyTurn {r : Reply} {rest : List Reply} (queue : s.replies = r :: rest)
    (turn : s.attention = false ∨ s.lastSent = .notice) : chooseNotice s = s :=
  chooseNotice_noTurn (.inr (turn.imp_right fun notice => ⟨by simp [queue], notice⟩))

/-! ## The notice (R160, R169) -/

theorem startAttention_member (member : (∃ n, (s.line n).inMap = true) ∨ s.partInMap = true) : startAttention s =
    { s with
      attention := false
      tx := some ⟨messageOctets (noticeBody (allLines.filter fun n => (s.line n).inMap) s.partInMap), false⟩
      lastSent := .notice } := by
  refine if_neg ?_
  rcases member with ⟨n, inMap⟩ | part
  · have some_ : s.linesInMap ≠ [] := List.ne_nil_of_mem (List.mem_filter.mpr ⟨mem_allLines n, inMap⟩)
    simp [some_]
  · simp [part]

theorem startAttention_empty (lines : ∀ n, (s.line n).inMap = false) (part : s.partInMap = false) :
    startAttention s = { s with attention := false } := by
  have none_ : s.linesInMap = [] := List.filter_eq_nil_iff.mpr fun n _ => by simp [lines n]
  exact if_pos (by simp [none_, part])

/-! ## The reply (R165) -/

/-- The oldest reply has left the queue and begins; the waiting request is not looked at yet. -/
def State.replyBegun (s : State) (r : Reply) (rest : List Reply) : State :=
  { s with replies := rest, tx := some ⟨messageOctets r.body, r.softReset⟩, lastSent := .reply }

theorem startReply_none (queue : s.replies = []) : startReply s = s := by simp only [startReply, queue]

theorem startReply_cons {r : Reply} {rest : List Reply} (queue : s.replies = r :: rest) :
    startReply s = runSlot (s.replyBegun r rest) := by
  simp only [startReply, queue, State.replyBegun]

theorem exec_replyStart {r : Reply} {rest : List Reply} (free : s.tx = none) (queue : s.replies = r :: rest)
    (turn : s.attention = false ∨ s.lastSent = .notice) : exec .replyStart s = .next (runSlot (s.replyBegun r rest)) := by
  have starts : exec .replyStart s = .next (startReply (chooseNotice s)) :=
    congrArg _ (if_pos (by simp [chooseNotice_replyTurn queue turn, free, queue]))
  rw [starts, chooseNotice_replyTurn queue turn, startReply_cons queue]

theorem exec_attention (s : State) : exec .attention s = .next (chooseNotice s) := rfl

/-! ## The choice at a free position (R168) -/

theorem chooseMessage_notice {t : State} (notice : chooseNotice s = t) (begun : t.tx.isSome = true) : chooseMessage s = t := by
  have busy : ¬ t.tx.isNone = true := by simpa using Option.isSome_iff_ne_none.mp begun
  simp only [chooseMessage, notice, if_neg busy]

theorem chooseMessage_reply {t : State} (notice : chooseNotice s = t) (free : t.tx = none) : chooseMessage s = startReply t := by
  simp [chooseMessage, notice, free]

/-! ## The octet positions (R168) -/

/-- What an octet position carries once the choice is made, and the state after it. -/
def State.carries (s : State) : Byte × State :=
  match s.tx with
  | none => (0x00, s)
  | some ⟨[], _⟩ => (0x00, { s with tx := none })
  | some ⟨[b], softReset⟩ => (b, endMessage softReset s)
  | some ⟨b :: c :: rest, softReset⟩ => (b, { s with tx := some ⟨c :: rest, softReset⟩ })

theorem carries_free (free : s.tx = none) : s.carries = (0x00, s) := by simp only [State.carries, free]

theorem carries_last {b : Byte} {f : Bool} (sending : s.tx = some ⟨[b], f⟩) : s.carries = (b, endMessage f s) := by
  simp only [State.carries, sending]

theorem carries_goesOn {b c : Byte} {rest : List Byte} {f : Bool} (sending : s.tx = some ⟨b :: c :: rest, f⟩) :
    s.carries = (b, { s with tx := some ⟨c :: rest, f⟩ }) := by
  simp only [State.carries, sending]

theorem sendOctet_eq (s : State) : sendOctet s = (if s.tx.isNone then chooseMessage s else s).carries := rfl

theorem sendOctet_free (free : s.tx = none) : sendOctet s = (chooseMessage s).carries := by
  rw [sendOctet_eq, if_pos (by simp [free])]

theorem sendOctet_busy {x : Transmission} (sending : s.tx = some x) : sendOctet s = s.carries := by
  rw [sendOctet_eq, if_neg (by simp [sending])]

theorem sendOctet_goesOn {b c : Byte} {rest : List Byte} {f : Bool} (sending : s.tx = some ⟨b :: c :: rest, f⟩) :
    sendOctet s = (b, { s with tx := some ⟨c :: rest, f⟩ }) := by
  rw [sendOctet_busy sending, carries_goesOn sending]

theorem sendOctet_last {b : Byte} {f : Bool} (sending : s.tx = some ⟨[b], f⟩) : sendOctet s = (b, endMessage f s) := by
  rw [sendOctet_busy sending, carries_last sending]

theorem sendOctet_starts {u : State} {body : List Byte} {f : Bool} (free : s.tx = none) (chosen : chooseMessage s = u)
    (begun : u.tx = some ⟨messageOctets body, f⟩) :
    sendOctet s = (0xC3, { u with tx := some ⟨(messageOctets body).tail, f⟩ }) := by
  obtain ⟨c, d, rest, octets⟩ := messageOctets_cons body
  rw [octets] at begun ⊢
  rw [sendOctet_free free, chosen, carries_goesOn begun, List.tail_cons]

theorem sendOctet_reply {r : Reply} {rest : List Reply} {u : State} (free : s.tx = none) (queue : s.replies = r :: rest)
    (turn : s.attention = false ∨ s.lastSent = .notice) (runs : runSlot (s.replyBegun r rest) = u)
    (begun : u.tx = some ⟨messageOctets r.body, r.softReset⟩) :
    sendOctet s = (0xC3, { u with tx := some ⟨(messageOctets r.body).tail, r.softReset⟩ }) := by
  refine sendOctet_starts free ?_ begun
  rw [chooseMessage_reply (chooseNotice_replyTurn queue turn) free, startReply_cons queue, runs]

theorem sendOctet_notice (free : s.tx = none) (wanted : s.attention = true) (turn : s.replies = [] ∨ s.lastSent = .reply)
    (member : (∃ n, (s.line n).inMap = true) ∨ s.partInMap = true) : sendOctet s = (0xC3,
      { s with
        attention := false
        tx := some ⟨(messageOctets (noticeBody (allLines.filter fun n => (s.line n).inMap) s.partInMap)).tail, false⟩
        lastSent := .notice }) := by
  have notice := (chooseNotice_turn free wanted turn).trans (startAttention_member member)
  exact sendOctet_starts free (chooseMessage_notice notice rfl) rfl

/-- R160: an empty snapshot clears the flag and leaves the position to the replies. -/
theorem sendOctet_emptySnapshot (free : s.tx = none) (wanted : s.attention = true) (turn : s.replies = [] ∨ s.lastSent = .reply)
    (lines : ∀ n, (s.line n).inMap = false) (part : s.partInMap = false) :
    sendOctet s = sendOctet { s with attention := false } := by
  have notice := (chooseNotice_turn free wanted turn).trans (startAttention_empty lines part)
  have none_ : chooseNotice { s with attention := false } = { s with attention := false } := chooseNotice_noTurn (.inr (.inl rfl))
  rw [sendOctet_free free, sendOctet_free (s := { s with attention := false }) free, chooseMessage_reply notice free,
    chooseMessage_reply none_ free]

theorem sendOctet_idle (free : s.tx = none) (queue : s.replies = []) (unwanted : s.attention = false) : sendOctet s = (0x00, s) := by
  have chosen : chooseMessage s = s := by
    rw [chooseMessage_reply (chooseNotice_noTurn (.inr (.inl unwanted))) free, startReply_none queue]
  rw [sendOctet_free free, chosen, carries_free free]

end

/-- R165: what the slot brings as a reply begins, and that it leaves the message begun. -/
theorem runSlot_replyBegun {s u : State} {r : Reply} {rest : List Reply}
    (brings : s.slot = none ∧ u = s.replyBegun r rest ∨ (∃ q, s.slot = some q ∧
      (rest.length < 4 ∧ u = execute q (s.replyBegun r rest) ∨ 4 ≤ rest.length ∧ u = s.replyBegun r rest))) :
    runSlot (s.replyBegun r rest) = u ∧ u.tx = some ⟨messageOctets r.body, r.softReset⟩ := by
  rcases brings with ⟨empty, rfl⟩ | ⟨q, waits, ⟨room, rfl⟩ | ⟨full, rfl⟩⟩
  · exact ⟨runSlot_empty empty, rfl⟩
  · exact ⟨runSlot_executes waits room, tx_execute _ _⟩
  · exact ⟨runSlot_waits waits full, rfl⟩

/-- Settles O44. -/
theorem theTransmitterChooses : Obligations.TheTransmitterChooses := by
  refine ⟨fun s r rest free queue turn => ⟨fun empty => ?_, fun q waits room => ?_⟩,
    fun s free wanted turn => ⟨fun member => ?_, fun lines part => ?_⟩,
    fun s no => (exec_attention s).trans (congrArg _ (chooseNotice_noTurn no)),
    fun s free queue unwanted => sendOctet_idle free queue unwanted,
    fun s r rest started u free queue turn begun brings => ?_,
    fun s free wanted turn => ⟨sendOctet_notice free wanted turn, sendOctet_emptySnapshot free wanted turn⟩,
    fun body => rfl, fun s b c rest f sending => sendOctet_goesOn sending, fun s b sending => sendOctet_last sending⟩
  · exact (exec_replyStart free queue turn).trans (congrArg _ (runSlot_empty empty))
  · exact (exec_replyStart free queue turn).trans (congrArg _ (runSlot_executes waits room))
  · exact (exec_attention s).trans (congrArg _ ((chooseNotice_turn free wanted turn).trans (startAttention_member member)))
  · exact (exec_attention s).trans (congrArg _ ((chooseNotice_turn free wanted turn).trans (startAttention_empty lines part)))
  · subst begun
    obtain ⟨runs, sending⟩ := runSlot_replyBegun brings
    exact ⟨(exec_replyStart free queue turn).trans (congrArg _ runs), sendOctet_reply free queue turn runs sending⟩

end Sys2Proof.Machine
end

section
/-! PROOF. O45: the soft reset. It resets the lines one after another, which leaves everything but the lines, the bound counts and the
attention-wanted flag, and then clears the part's own flags, counters and messages. -/

namespace Sys2Proof.Machine

/-! ## SOFT-RESET at its execution -/

theorem exec_softReset_accepted {s : State} (ready : s.ready) (tag : Byte) (none_ : s.softReset = false) :
    exec (.softReset tag []) s = .next
      { s with softReset := true, replies := s.replies ++ [⟨tag, 0x17, .ack false false .nothing, true⟩] } := by
  rw [exec_softReset_ready ready tag (by simp)]
  simp [reqSoftReset, withNothing, none_, Executed.replied]

theorem exec_softReset_busy {s : State} (ready : s.ready) (tag : Byte) (pending : s.softReset = true) :
    exec (.softReset tag []) s = .next (s.refusedBy tag 0x17 .busy) := by
  refine next_refused (exec_softReset_ready ready tag (by simp)) ?_
  simp [reqSoftReset, withNothing, pending]

theorem exec_softResetAction {s : State} {b : Byte} (sending : s.tx = some ⟨[b], true⟩) :
    exec .softResetAction s = .next (softResetNow s) := by
  show execSoftResetAction s = _
  simp only [execSoftResetAction, sending]

/-! ## The lines -/

/-- A line after its reset (R30). -/
def Line.afterReset (l : Line) : Line :=
  { l with
    config := l.config.taken
    filter := Filter.reset
    decoder := .idle
    emission := Emission.idle
    capture := none
    events := 0
    rejectReason := none
    quality := Quality.reset }

theorem line_lineReset (n : LineId) (s : State) : (lineReset n s).line n = (s.line n).afterReset := by
  rw [lineReset_eq, line_modLine_self, line_clearCall]
  rfl

theorem line_forLines_lineReset (s : State) (n : LineId) : (forLines lineReset s).line n = (s.line n).afterReset :=
  line_forLines (g := fun _ => Line.afterReset) line_lineReset (fun k m s other => (onlyLine_lineReset k s).other m other) s n

/-- Only the lines, the bound counts of the sets and the attention-wanted flag differ. -/
structure OnlyLines (s t : State) : Prop where
  rest : t = { s with lines := t.lines, xlat := t.xlat, code := t.code, attention := t.attention }
  xlat : ∀ k, (s.xlat.get k).sameButBound (t.xlat.get k)
  code : ∀ k, (s.code.get k).sameButBound (t.code.get k)

theorem sameButBound_trans {α : Type} {size : Nat} {p q r : PagedSet α size} (h : p.sameButBound q) (k : q.sameButBound r) :
    p.sameButBound r := by
  obtain ⟨pageA, pageB, active, locked⟩ := h
  obtain ⟨pageA', pageB', active', locked'⟩ := k
  exact ⟨pageA'.trans pageA, pageB'.trans pageB, active'.trans active, locked'.trans locked⟩

theorem OnlyLines.and_then {n : LineId} {s t u : State} (h : OnlyLines s t) (k : OnlyLine n t u) : OnlyLines s u where
  rest := by
    have e := k.rest
    rw [h.rest] at e
    exact e
  xlat j := sameButBound_trans (h.xlat j) (k.xlat j)
  code j := sameButBound_trans (h.code j) (k.code j)

theorem onlyLines_lineResets (s : State) : OnlyLines s (forLines lineReset s) :=
  forLines_keeps (fun n t h => h.and_then (onlyLine_lineReset n t)) ⟨rfl, fun _ => sameButBound_refl _, fun _ => sameButBound_refl _⟩

/-! ## The reset as a whole -/

/-- The part's own flags and counters and the state of the transmitter and the slot are cleared (R172). -/
def State.cleared (s : State) : State :=
  { s with
    partEvents := 0, checkFailures := 0, discardedRequests := 0, attention := false, slot := none, replies := [], tx := none,
    lastSent := .notice, softReset := false }

theorem softResetNow_eq (s : State) : softResetNow s = (forLines lineReset s).cleared := rfl

@[simp] theorem line_cleared (s : State) (n : LineId) : s.cleared.line n = s.line n := rfl

theorem line_softResetNow (s : State) (n : LineId) : (softResetNow s).line n = (s.line n).afterReset := by
  rw [softResetNow_eq, line_cleared, line_forLines_lineReset]

theorem OnlyLines.cleared {s t : State} (h : OnlyLines s t) : OnlyLines s.cleared t.cleared where
  rest := congrArg State.cleared h.rest
  xlat := h.xlat
  code := h.code

theorem onlyLines_softResetNow (s : State) : OnlyLines s.cleared (softResetNow s) := (onlyLines_lineResets s).cleared

theorem endMessage_softReset (s : State) : endMessage true s = softResetNow s := if_pos rfl

/-- Settles O45. -/
theorem softResetsActAfterTheirReply : Obligations.SoftResetsActAfterTheirReply := by
  refine ⟨fun s tag ready => ⟨exec_softReset_accepted ready tag, exec_softReset_busy ready tag⟩, fun s b sending =>
    ⟨softResetNow s, exec_softResetAction sending, ?_, (onlyLines_softResetNow s).rest, fun n => ?_, fun n => ?_,
      (onlyLines_softResetNow s).xlat, (onlyLines_softResetNow s).code⟩⟩
  · rw [sendOctet_last sending, endMessage_softReset]
  · rw [line_softResetNow, line_lineReset]
  · rw [callOf_eq, line_softResetNow]
    rfl

end Sys2Proof.Machine
end

section
/-! PROOF. O46, O54: IDENTIFY and CURSOR-SET. -/

namespace Sys2Proof.Machine

/-- Settles O46. -/
theorem identityIsFixed : Obligations.IdentityIsFixed := by
  refine ⟨fun s tag ready => ?_, rfl, rfl⟩
  rw [exec_identify_ready ready tag (by simp)]
  exact congrArg _ (replied_ackWith .identity tag 0x01 rfl)

/-! ## CURSOR-SET: VALUE before RANGE (R170) -/

section
variable {kind set page offset auto : Byte} (s : State)

theorem reqCursorSet_accepted {table : TableRef} {p : Page} (named : tableOf kind set = .ok table) (paged : pageOfCode page = some p)
    (inside : offset.toNat ≤ table.size) : reqCursorSet [kind, set, page, offset, auto] s =
      ackWith { s with cursor := ⟨table, p, offset.toNat, auto.getLsbD 0⟩ } (.cursor ⟨table, p, offset.toNat, auto.getLsbD 0⟩) := by
  simp only [reqCursorSet, named, paged]
  exact if_neg (Nat.not_lt.mpr inside)

theorem reqCursorSet_noKind (unnamed : tableOf kind set = .error .value) :
    reqCursorSet [kind, set, page, offset, auto] s = refuseWith s .value := by
  simp only [reqCursorSet, unnamed]

theorem tableOf_error {c : RefusalCode} (refused : tableOf kind set = .error c) : c = .value ∨ c = .range := by
  unfold tableOf at refused
  split_ifs at refused <;> cases refused <;> simp

theorem reqCursorSet_noPage (unpaged : pageOfCode page = none) :
    reqCursorSet [kind, set, page, offset, auto] s = refuseWith s .value := by
  rcases named : tableOf kind set with c | table
  · rcases tableOf_error named with rfl | rfl <;> simp only [reqCursorSet, named, unpaged]
  · simp only [reqCursorSet, named, unpaged]

theorem reqCursorSet_setOutside {p : Page} (outside : tableOf kind set = .error .range) (paged : pageOfCode page = some p) :
    reqCursorSet [kind, set, page, offset, auto] s = refuseWith s .range := by
  simp only [reqCursorSet, outside, paged]

theorem reqCursorSet_offsetOutside {table : TableRef} {p : Page} (named : tableOf kind set = .ok table)
    (paged : pageOfCode page = some p) (past : table.size < offset.toNat) :
    reqCursorSet [kind, set, page, offset, auto] s = refuseWith s .range := by
  simp only [reqCursorSet, named, paged]
  exact if_pos past

end

theorem pageOfCode_unnamed {page : Byte} (above : 1 < page.toNat) : pageOfCode page = none := by
  have notA : page ≠ 0 := by rintro rfl; exact absurd above (by decide)
  have notB : page ≠ 1 := by rintro rfl; exact absurd above (by decide)
  simp only [pageOfCode, notA, notB, if_false]

theorem pageOfCode_named {page : Byte} (named : page.toNat ≤ 1) : ∃ p, pageOfCode page = some p := by
  rcases Nat.le_one_iff_eq_zero_or_eq_one.mp named with zero | one
  · exact ⟨.a, if_pos (BitVec.eq_of_toNat_eq zero)⟩
  · have isB : page = 1 := BitVec.eq_of_toNat_eq one
    subst isB
    exact ⟨.b, rfl⟩

theorem reqCursorSet_value {kind page : Byte} (noValue : 2 < kind.toNat ∨ 1 < page.toNat) (set offset auto : Byte) (s : State) :
    reqCursorSet [kind, set, page, offset, auto] s = refuseWith s .value :=
  noValue.elim (fun above => reqCursorSet_noKind s (tableOf_value above set))
    fun above => reqCursorSet_noPage s (pageOfCode_unnamed above)

/-- A set or an offset outside the range of its kind: the kind names no table, or one that ends before the offset. -/
theorem tableOf_outside {kind set offset : Byte} (outside : kind = 0 ∧ (8 ≤ set.toNat ∨ 20 < offset.toNat) ∨
    kind = 1 ∧ (4 ≤ set.toNat ∨ 16 < offset.toNat) ∨ kind = 2 ∧ (1 ≤ set.toNat ∨ 16 < offset.toNat)) :
    tableOf kind set = .error .range ∨ ∃ table, tableOf kind set = .ok table ∧ table.size < offset.toNat := by
  rcases outside with ⟨rfl, outside⟩ | ⟨rfl, outside⟩ | ⟨rfl, outside⟩
  · by_cases inside : set.toNat < 8
    · exact .inr ⟨.trans ⟨set.toNat, inside⟩, dif_pos inside, outside.resolve_left (Nat.not_le.mpr inside)⟩
    · exact .inl (dif_neg inside)
  · by_cases inside : set.toNat < 4
    · exact .inr ⟨.code ⟨set.toNat, inside⟩, dif_pos inside, outside.resolve_left (Nat.not_le.mpr inside)⟩
    · exact .inl (dif_neg inside)
  · by_cases zero : set = 0
    · subst zero
      exact .inr ⟨.tone, rfl, outside.resolve_left (by decide)⟩
    · exact .inl (if_neg zero)

theorem reqCursorSet_range {kind set page offset : Byte} (paged : page.toNat ≤ 1)
    (outside : kind = 0 ∧ (8 ≤ set.toNat ∨ 20 < offset.toNat) ∨ kind = 1 ∧ (4 ≤ set.toNat ∨ 16 < offset.toNat) ∨
      kind = 2 ∧ (1 ≤ set.toNat ∨ 16 < offset.toNat)) (auto : Byte) (s : State) :
    reqCursorSet [kind, set, page, offset, auto] s = refuseWith s .range := by
  obtain ⟨p, paged⟩ := pageOfCode_named paged
  rcases tableOf_outside outside with refused | ⟨table, named, past⟩
  · exact reqCursorSet_setOutside s refused paged
  · exact reqCursorSet_offsetOutside s named paged past

theorem exec_cursorSet_accepted {s : State} (ready : s.ready) (tag : Byte) {c : Cursor} (inside : c.offset ≤ c.table.size) :
    exec (.cursorSet tag c.octets) s = .next ({ s with cursor := c }.acked tag 0x09 (.cursor c)) := by
  obtain ⟨kind, set, page, offset, auto, octets, named, paged, off, increments⟩ := cursor_readsBack inside
  have accepted := reqCursorSet_accepted (auto := auto) s named paged (off ▸ inside)
  rw [off, increments, ← octets] at accepted
  exact (exec_cursorSet_ready ready tag (by simp [octets])).trans (congrArg _ (replied_of_ackWith accepted rfl tag 0x09))

/-- Settles O54. -/
theorem theCursorIsSet : Obligations.TheCursorIsSet :=
  ⟨fun _ tag _ ready inside => exec_cursorSet_accepted ready tag inside, fun _ => rfl, fun _ => rfl, rfl,
    fun s tag _ set _ offset auto ready =>
      ⟨fun noValue => next_refused (exec_cursorSet_ready ready tag (by simp)) (reqCursorSet_value noValue set offset auto s),
        fun paged outside => next_refused (exec_cursorSet_ready ready tag (by simp)) (reqCursorSet_range paged outside auto s)⟩⟩

end Sys2Proof.Machine
end

section
/-! PROOF. O1, O2: a step runs the front command; every command answers by its form alone, and leaves the commands that wait. -/

namespace Sys2Proof.Machine

/-! ## The queue of commands (log entry 2) -/

theorem step_cons (c : Instr) (rest : List Instr) (s : State) :
    step { s with pending := c :: rest } = exec c { s with pending := rest } := rfl

theorem step_idle {s : State} (empty : s.pending = []) : step s = .next s := by simp only [step, empty]

/-- No update of the part touches the queue, and power-on reset keeps it. -/
theorem closed_pendingAre (waiting : List Instr) : Closed fun s => s.pending = waiting where
  on := lineClosed_of_free (fun _ p => p) (fun _ p => p) fun _ _ p => p
  small p e := by rw [e]; exact p
  config _ p _ := p
  profile _ _ _ p _ := p
  trans _ _ p _ _ := p
  code _ _ p _ _ := p
  tones _ p := p
  management p e := by rw [e]; exact p
  replies _ p _ := p
  ports p e := by rw [e]; exact p
  paced p := p
  carried p := p
  voice _ _ p := p
  lu _ p _ := p
  luLock p := p
  luLoss p := p
  luFrame _ p _ := p
  sd _ p _ := p
  sdLock p := p
  sdLoss p := p
  sdFrame _ p _ := p
  reset p := p

theorem pending_exec {c : Instr} {s t : State} (e : exec c s = .next t) : t.pending = s.pending :=
  (closed_pendingAre s.pending).exec c rfl e

/-! ## Outcomes by the form of the command (log entry 20) -/

/-- The outcome is a next state if the command is well formed, and the fault `illFormed` if it is not. -/
def AnswersByForm (c : Instr) (o : Host.Outcome State Fault Refusal) : Prop :=
  (c.wf = true → Completes o) ∧ (c.wf = false → o = .fault .illFormed)

theorem answersByForm_ite (c : Instr) (t : State) : AnswersByForm c (if c.wf then .next t else .fault .illFormed) :=
  ⟨fun formed => ⟨t, if_pos formed⟩, fun illFormed => if_neg (Bool.eq_false_iff.mp illFormed)⟩

theorem answersByForm_next {c : Instr} (formed : c.wf = true) (t : State) : AnswersByForm c (.next t) :=
  ⟨fun _ => ⟨t, rfl⟩, fun illFormed => nomatch formed.symm.trans illFormed⟩

/-- The message of a request command is offered to the slot if the command is well formed. -/
theorem answersByForm_offerCommand (c : Instr) (r : Request) (s : State) : AnswersByForm c (offerCommand c r s) :=
  answersByForm_ite c (offer r s)

theorem answersByForm_markerCheck (d : Direction) (slots : Slots) (s : State) :
    AnswersByForm (.markerCheck d slots) (execMarkerCheck d slots s) := by
  unfold execMarkerCheck
  split <;> exact answersByForm_next rfl _

/-- Only QUALITY_WINDOW_END and the requests ask for the form of their operands; every other term is well formed. -/
theorem answersByForm_exec (c : Instr) (s : State) : AnswersByForm c (exec c s) := by
  cases c with
  | qualityWindowEnd n report => exact answersByForm_ite (.qualityWindowEnd n report) _
  | markerCheck d slots => exact answersByForm_markerCheck d slots s
  | powerOnReset | huntMarkerFound | alignmentLock | alignmentLoss | outputFrame | loopTransition | faultStateChange | seizeExpiry
  | digitEndExpiry | dialIdleExpiry | clearExpiry | lossHoldExpiry | firstWaitEnd | emitterTakeItem | burstEnd | gapEnd
  | flashOpenEnd | guardEnd | muteWaitLimit | replyStart | attention | softResetAction => exact answersByForm_next rfl _
  | _ => exact answersByForm_offerCommand _ _ s

/-! ## The statements -/

/-- Settles O1. -/
theorem stepTakesTheFrontCommand : Obligations.StepTakesTheFrontCommand := ⟨step_cons, fun _ => step_idle⟩

/-- Settles O2. -/
theorem wellFormedCommandsComplete : Obligations.WellFormedCommandsComplete := ⟨answersByForm_exec, fun _ _ _ => pending_exec⟩

end Sys2Proof.Machine
end
